-- ==== Sys2Proof/Word.lean ====
section
/-! DEFINITION. The two value widths of MBF: bytes (u8) and words (u16), both unsigned
(spec/00_scope.md section 5.1; spec/40_convert.md R95). -/

namespace Sys2Proof

/-- `u8`: one byte. -/
abbrev Byte := BitVec 8

/-- `u16`: one word. -/
abbrev Word := BitVec 16

end Sys2Proof
end

