-- ==== Sys2Proof/Syntax.lean ====
section
/-! DEFINITION. The commands of MBF: one constructor of `Instr` per row of spec/opcode_table.json
(spec/30_encoding.md R63, operands R65), and the two records that commands carry. Sequence operands
have no architectural length bound (spec/00_scope.md R8). -/

namespace Sys2Proof

/-- The header of an envelope (R51). -/
structure Header where
  transactionId : Word
  protocolId : Word
  length : Word
  unitId : Byte
deriving DecidableEq, Repr

/-- A protocol data unit (R52, R110). A value may break the invariant that PDUENC enforces. -/
structure Pdu where
  function : Byte
  payload : List Byte
deriving DecidableEq, Repr

/-- The 29 commands (R63), with the operands of R65. -/
inductive Instr where
  /-- RDCOIL, Read Coils (R163). -/
  | rdcoil (addr qty : Word)
  /-- RDDI, Read Discrete Inputs (R164). -/
  | rddi (addr qty : Word)
  /-- RDHR, Read Holding Registers (R165). -/
  | rdhr (addr qty : Word)
  /-- RDIR, Read Input Registers (R166). -/
  | rdir (addr qty : Word)
  /-- WRCOIL, Write Single Coil (R167). -/
  | wrcoil (addr : Word) (val : Bool)
  /-- WRREG, Write Single Register (R168). -/
  | wrreg (addr val : Word)
  /-- RDEXST, Read Exception Status (R174). -/
  | rdexst
  /-- DIAG, Diagnostics (R175). -/
  | diag (sub : Word) (data : List Word)
  /-- GCEC, Get Comm Event Counter (R176). -/
  | gcec
  /-- WRMCOIL, Write Multiple Coils (R169). -/
  | wrmcoil (addr : Word) (vals : List Bool)
  /-- WRMREG, Write Multiple Registers (R170). -/
  | wrmreg (addr : Word) (vals : List Word)
  /-- RPTID, Report Server Id (R177). -/
  | rptid
  /-- MASKWR, Mask Write Register (R172). -/
  | maskwr (addr andMask orMask : Word)
  /-- RWMREG, Read/Write Multiple Registers (R171). -/
  | rwmreg (raddr rqty waddr : Word) (vals : List Word)
  /-- RDFIFO, Read FIFO Queue (R173). -/
  | rdfifo (addr : Word)
  /-- CONNECT (R135). -/
  | connect
  /-- CLOSE (R137). -/
  | close
  /-- SEND (R140). -/
  | send (pdu : Pdu)
  /-- W2B, words to bytes (R90). -/
  | w2b (words : List Word)
  /-- B2W, bytes to words (R91). -/
  | b2w (bytes : List Byte)
  /-- PACKB, bit array to bytes (R92). -/
  | packb (bits : List Bool)
  /-- UNPKB, bytes to bit array (R93). -/
  | unpkb (bytes : List Byte) (qty : Nat)
  /-- PDUENC, encode a PDU (R111). -/
  | pduenc (pdu : Pdu)
  /-- PDUDEC, decode a PDU (R112). -/
  | pdudec (bytes : List Byte)
  /-- HDRENC, encode a header (R120). -/
  | hdrenc (header : Header)
  /-- HDRDEC, decode a header (R121). -/
  | hdrdec (bytes : List Byte)
  /-- ENVENC, encode an envelope (R122). -/
  | envenc (header : Header) (pdu : Pdu)
  /-- ENVDEC, decode an envelope (R123). -/
  | envdec (bytes : List Byte)
  /-- EXCLBL, exception code to category (R200). -/
  | exclbl (code : Byte)
deriving DecidableEq, Repr

end Sys2Proof
end

