-- ==== Sys2Proof/Machine/Operands.lean ====
section
/-! DEFINITION. The data order of MBF and the assembly of operands into request payloads, as pure
functions: big-endian words (spec/20_memory.md R30), least-significant-bit-first bit arrays (R31), the
four converters of layer L0 (spec/40_convert.md R90 to R93), field assembly (spec/30_encoding.md R56) and
the eight request formats (R57, without the function byte). -/

namespace Sys2Proof.Machine

/-- `ceil_div(a, n)` (spec/00_scope.md section 5.1). -/
def ceilDiv (a n : Nat) : Nat := (a + n - 1) / n

/-- `be16(v)`: the two bytes of a word, the byte of higher weight first (R30). -/
def be16 (v : Word) : List Byte := [BitVec.ofNat 8 (v.toNat / 256), BitVec.ofNat 8 (v.toNat % 256)]

/-- `u16be(h, l)`: the word `256 * h + l` (R30). -/
def u16be (h l : Byte) : Word := BitVec.ofNat 16 (256 * h.toNat + l.toNat)

/-- W2B: two big-endian bytes for each word, in input order (R90). -/
def wordsToBytes (words : List Word) : List Byte := words.flatMap be16

/-- B2W: bytes two at a time into words; a single trailing byte is the low byte of the last word (R91). -/
def bytesToWords : List Byte → List Word
  | [] => []
  | [b] => [b.setWidth 16]
  | h :: l :: rest => u16be h l :: bytesToWords rest

/-- One packed byte: element `j` of the eight (or fewer) given is bit `j`, unused high bits zero (R31). -/
def packByte (bits : List Bool) : Byte := (BitVec.ofBoolListLE bits).setWidth 8

/-- PACKB: element `i` of the array is bit `i mod 8` of byte `i div 8` (R31, R92). -/
def packBits (bits : List Bool) : List Byte :=
  (List.range (ceilDiv bits.length 8)).map fun k => packByte ((bits.drop (8 * k)).take 8)

/-- The bit array `UNPKB` reads: element `i` is bit `i mod 8` of byte `i div 8` (R31, R93). Its callers
check R93's precondition first. -/
def unpackBits (bytes : List Byte) (qty : Nat) : List Bool :=
  (List.range qty).map fun i => (bytes.getD (i / 8) 0).getLsbD (i % 8)

/-- UNPKB: `none` where R93 refuses, when fewer bits are there than wanted. -/
def unpackChecked (bytes : List Byte) (qty : Nat) : Option (List Bool) :=
  if 8 * bytes.length < qty then none else some (unpackBits bytes qty)

/-- The element count of an array operand: two bytes, big-endian; modulo 65536 for an array that is never
sent (R56, R95). -/
def countField (n : Nat) : List Byte := be16 (BitVec.ofNat 16 n)

/-- The number of array data bytes that follow: one byte; modulo 256 for an array that is never sent
(R56, R95). -/
def byteCountField (n : Nat) : Byte := BitVec.ofNat 8 n

/-- The value field of WRCOIL: 0xFF00 if true else 0x0000 (R56). -/
def coilField (val : Bool) : List Byte := if val then [0xFF, 0x00] else [0x00, 0x00]

/-- Format Q0: no operand (R57). -/
def requestQ0 : List Byte := []

/-- Format QA: address (R57). -/
def requestQA (addr : Word) : List Byte := be16 addr

/-- Format QAQ: address, quantity (R57). -/
def requestQAQ (addr qty : Word) : List Byte := be16 addr ++ be16 qty

/-- Format QAV of WRCOIL: address, coil value (R57). -/
def requestCoil (addr : Word) (val : Bool) : List Byte := be16 addr ++ coilField val

/-- Format QAV of WRREG: address, value (R57). -/
def requestQAV (addr val : Word) : List Byte := be16 addr ++ be16 val

/-- Format QAMM: address, AND mask, OR mask (R57). -/
def requestQAMM (addr andMask orMask : Word) : List Byte := be16 addr ++ be16 andMask ++ be16 orMask

/-- Format QSD: subfunction, data words (R57). -/
def requestQSD (sub : Word) (data : List Word) : List Byte := be16 sub ++ wordsToBytes data

/-- Format QACB: address, element count, byte count, array data (R57). -/
def requestQACB (addr : Word) (n : Nat) (data : List Byte) : List Byte :=
  be16 addr ++ countField n ++ [byteCountField data.length] ++ data

/-- Format QRW: read address and quantity, write address and quantity, byte count, write data (R57). -/
def requestQRW (raddr rqty waddr : Word) (vals : List Word) : List Byte :=
  be16 raddr ++ be16 rqty ++ be16 waddr ++ countField vals.length
    ++ [byteCountField (wordsToBytes vals).length] ++ wordsToBytes vals

end Sys2Proof.Machine
end

