-- ==== Sys2Proof/Config.lean ====
section
/-! DEFINITION. The implementation parameters of MBF (spec/00_scope.md section 4). Every number is a
constant of the source but for `txnReset`, which the spec decides (D3), and `unitId`, which is open
(D4) and therefore has no body. `SEQ_MAX` (R8, D15) is left unbounded, the reference model's choice. -/

namespace Sys2Proof.Config

/-- `MAX_PAYLOAD`: the payload of a PDU that MBF encodes (R1). -/
abbrev maxPayload : Nat := 252

/-- `HEADER_LEN` (R2). -/
abbrev headerLen : Nat := 7

/-- `MIN_ENVELOPE`: the smallest envelope that decodes (R2). -/
abbrev minEnvelope : Nat := 8

/-- `MAX_ENVELOPE`: the largest envelope (R2). -/
abbrev maxEnvelope : Nat := 260

/-- `RX_MAX`: the most bytes one response read returns (R7). -/
abbrev rxMax : Nat := 260

/-- `PROTOCOL_ID`: the constant S.PROTO (R3, R14). -/
abbrev protocolId : Word := 0

/-- `TXN_RESET`: the counter after reset; the source gives no value and the spec sets 0 (R5, D3).
DESIGN CHOICE (log entry 2), unsafe for claims about literal ids. -/
abbrev txnReset : Word := 0

/-- `UNIT_ID`: the unit id of every session, any value 0 to 255 (R6, U13). Open: no body, so nothing
proved about the model can depend on its value (log entry 3). -/
opaque unitId : Byte

end Sys2Proof.Config
end

