-- ==== Sys2Proof/Machine/State.lean ====
section
/-! DEFINITION. What an MBF instance and its surroundings are, as plain data: the session state
(spec/10_state.md R10), the command in flight (R140, R247), the link's receive queue (R40), the inputs the
link and the host will give, the results and link events observed so far (R45), and the reasons a step
can stop. -/

namespace Sys2Proof.Machine

/-- The ten exception categories (spec/45_taxonomy.md R200). -/
inductive Category where
  | illegalFunction
  | illegalDataAddress
  | illegalDataValue
  | serverDeviceFailure
  | acknowledge
  | serverDeviceBusy
  | memoryParityError
  | gatewayPathUnavailable
  | gatewayTargetDeviceFailedToRespond
  | unknownException
deriving DecidableEq, Repr

/-- The twelve error kinds (spec/60_exceptions.md R210); only the last carries data. -/
inductive ErrKind where
  | invalidFunctionCode
  | payloadTooLarge
  | truncatedPdu
  | truncatedHeader
  | truncatedEnvelope
  | connectionError
  | notConnected
  | writeError
  | readError
  | transactionMismatch
  | unexpectedCoilCount
  | protocolException (code exception : Byte)
deriving DecidableEq, Repr

/-- The classes of the error kinds (R211). -/
inductive ErrClass where
  | transport
  | framing
  | encoding
  | protocolException
  | applicationConsistency
deriving DecidableEq, Repr

/-- The value inside `Ok`, by result type (spec/30_encoding.md R65). -/
inductive Value where
  | nothing
  | bytes (v : List Byte)
  | words (v : List Word)
  | bools (v : List Bool)
  | pdu (v : Pdu)
  | header (v : Header)
  | envelope (h : Header) (p : Pdu)
  | commEvents (status : Bool) (count : Word)
  | category (v : Category)
deriving DecidableEq, Repr

/-- What a command completes with (spec/00_scope.md section 5.3, R210). -/
inductive Result where
  | ok (v : Value)
  | err (k : ErrKind)
deriving DecidableEq, Repr

/-- The two values of S.LINK (R11). -/
inductive LinkState where
  | disconnected
  | connected
deriving DecidableEq, Repr

/-- The answers of `LinkConnect` (spec/20_memory.md R36, R37). -/
inductive ConnectAnswer where
  | opened
  | failed
deriving DecidableEq, Repr

/-- The answers of `LinkWrite` (R36, R38). With `failed` comes how many bytes of the envelope the peer
received all the same, a draw (U4); a number over the envelope's length means all of it. -/
inductive WriteAnswer where
  | written
  | failed (stillOpen : Bool) (delivered : Nat)
deriving DecidableEq, Repr

/-- The answers of `LinkRead` (R36, R39). The answer that never comes (U11) is no answer. -/
inductive ReadAnswer where
  | data (bytes : List Byte)
  | empty (stillOpen : Bool)
  | failed (stillOpen : Bool)
deriving DecidableEq, Repr

/-- What the link and the peer draw for one `LinkRead`: the bytes the peer has appended to the receive
queue since the last read (R40), and then either that the read returns at most `count` bytes of the queue
(none: an empty read, with the link's report), or that it fails (R39). -/
inductive ReadDraw where
  | returns (arrived : List Byte) (count : Nat) (stillOpen : Bool)
  | fails (arrived : List Byte) (stillOpen : Bool)
deriving DecidableEq, Repr

/-- One link call with its answer (R45). -/
inductive LinkEvent where
  | connect (answer : ConnectAnswer)
  | write (envelope : List Byte) (answer : WriteAnswer)
  | read (answer : ReadAnswer)
  | close
deriving DecidableEq, Repr

/-- What the host puts on the command channel: a command message (R63, D2), or reset (R240). -/
inductive HostAction where
  | command (message : List Byte)
  | reset
deriving DecidableEq, Repr

/-- The response formats of the operations (spec/30_encoding.md R59), with the operand the decode needs. -/
inductive RespFormat where
  | pb (qty : Nat)
  | pw
  | pw0
  | pn
  | pc (count : Nat)
  | pe
  | pd
  | pg
  | pr
  | pf
deriving DecidableEq, Repr

/-- What becomes of the response PDU: SEND returns it (R140 step 10); an operation with function code
`function` makes the exception check and its own decode (R160 steps 3 and 4). -/
inductive Finish where
  | send
  | operation (function : Byte) (format : RespFormat)
deriving DecidableEq, Repr

/-- A command whose next link call has no answer yet (R149, R247): CONNECT at its LinkConnect, or a SEND
or operation at step 2 (with the encoded PDU), step 6 (with the request's id and TXBUF) or step 7 (with
the request's id) of R140. -/
inductive InFlight where
  | connect
  | opening (finish : Finish) (pdu : List Byte)
  | writing (finish : Finish) (tid : Word) (envelope : List Byte)
  | reading (finish : Finish) (tid : Word)
deriving DecidableEq, Repr

/-- An MBF instance with its host and its link. The first three fields are all that MBF keeps from one
command to the next (R10); S.PROTO is not storage (R14; `State.proto`). -/
structure State where
  /-- S.LINK (R11). -/
  link : LinkState
  /-- S.TXN (R12). -/
  txn : Word
  /-- S.UNIT (R13). -/
  unit : Byte
  /-- The command that waits for the link, if one does (R149, R247). -/
  inFlight : Option InFlight
  /-- What the host presents on the command channel now (D2). -/
  port : Option HostAction
  /-- What the host will hand over next, in order (R17, R213). -/
  program : List HostAction
  /-- The link's receive queue, oldest byte first (R40, R19). -/
  rxQueue : List Byte
  /-- The answers `LinkConnect` will get, next first (R37, U16). -/
  connectIn : List ConnectAnswer
  /-- The answers `LinkWrite` will get, next first (R38, U4, U5). -/
  writeIn : List WriteAnswer
  /-- The draws `LinkRead` will get, next first (R39, U5, U11, U12). -/
  readIn : List ReadDraw
  /-- The results handed to the host, oldest first. No command reads them (R18). -/
  results : List Result
  /-- The link events, oldest first (R45). No command reads them. -/
  trace : List LinkEvent
deriving DecidableEq, Repr

/-- MBF never stops with a fault: its errors are results, after which it is ready for the next command
(R215, R217). The type has no constructor, so no step can raise one. -/
inductive Fault where
deriving DecidableEq, Repr

/-- The situations the spec gives no meaning (`refuse`, R212), each by name, and the command that has no
meaning yet. Every refusal is safe: the model stops where the block does something unknown. -/
inductive Refusal where
  /-- Raised by an arm of `exec` for an instruction without a meaning. Safe. -/
  | notModelled (mnemonic : String)
  /-- Raised by UNPKB when `qty > 8 * len(bytes)` (R93, U1). Safe. -/
  | unpackTooFewBits
  /-- Raised by the 15 operations when the response payload is shorter than the decode needs
  (R178, U1). Safe. -/
  | responseTooShort
  /-- Raised by the 15 operations on an exception response with an empty payload (R160, U1). Safe. -/
  | exceptionWithoutCode
  /-- Raised by CONNECT while S.LINK is Connected (R135, U2). Safe. -/
  | connectWhileConnected
  /-- Raised by `step` when a command is presented while one is in flight (R22, U3). Safe. -/
  | commandWhileInFlight
  /-- Raised by `step` on a command code that R63 does not assign (R64, U8). Safe. -/
  | reservedCommandCode (code : Byte)
  /-- Raised by `step` on an empty command message, which names no command (R63). Safe. -/
  | emptyCommand
  /-- Raised by `step` on a command message whose operand bytes are no operands of its code
  (R57, R65; log entry 9). Safe. -/
  | malformedOperands (code : Byte)
  /-- Raised by `step` on a reset while a command is in flight (R241, U9). Safe. -/
  | resetWhileInFlight
deriving DecidableEq, Repr

/-- The state right after reset (R21, R240): disconnected, the counter at `TXN_RESET`, the unit id latched
from `UNIT_ID`, no command in flight. The link has nothing queued, and neither the host nor the link has
said anything yet (log entries 4, 7, 8, 26). -/
def State.reset : State where
  link := .disconnected
  txn := Config.txnReset
  unit := Config.unitId
  inFlight := none
  port := none
  program := []
  rxQueue := []
  connectIn := []
  writeIn := []
  readIn := []
  results := []
  trace := []

end Sys2Proof.Machine
end

