-- ==== Sys2Proof/Machine/Codec.lean ====
section
/-! DEFINITION. Layer L1 as pure functions: the PDU codec (spec/41_pdu.md R111, R112) and the header and
envelope codec (spec/42_envelope.md R120 to R123). They validate lengths and, when encoding, the function
code; no decoder compares a field with anything (R114, R126). -/

namespace Sys2Proof.Machine

/-- PDUENC (R111): the function test first (D29), then the length test. -/
def pduEncode (pdu : Pdu) : Except ErrKind (List Byte) :=
  if pdu.function = 0 then .error .invalidFunctionCode
  else if Config.maxPayload < pdu.payload.length then .error .payloadTooLarge
  else .ok (pdu.function :: pdu.payload)

/-- PDUDEC (R112). -/
def pduDecode : List Byte → Except ErrKind Pdu
  | [] => .error .truncatedPdu
  | function :: payload => .ok { function := function, payload := payload }

/-- HDRENC (R120): always seven bytes. -/
def headerEncode (h : Header) : List Byte :=
  be16 h.transactionId ++ be16 h.protocolId ++ be16 h.length ++ [h.unitId]

/-- HDRDEC (R121): the first seven bytes; the rest is not looked at (D30). -/
def headerDecode : List Byte → Except ErrKind Header
  | t1 :: t0 :: p1 :: p0 :: l1 :: l0 :: u :: _ =>
    .ok { transactionId := u16be t1 t0, protocolId := u16be p1 p0, length := u16be l1 l0, unitId := u }
  | _ => .error .truncatedHeader

/-- ENVENC (R122): the header as given, then the encoded PDU; PDUENC's errors propagate. -/
def envelopeEncode (h : Header) (pdu : Pdu) : Except ErrKind (List Byte) :=
  match pduEncode pdu with
  | .error k => .error k
  | .ok p => .ok (headerEncode h ++ p)

/-- ENVDEC (R123): the header from the first seven bytes, the PDU from all the rest. -/
def envelopeDecode (bytes : List Byte) : Except ErrKind (Header × Pdu) :=
  if bytes.length < Config.minEnvelope then .error .truncatedEnvelope
  else
    match headerDecode (bytes.take Config.headerLen) with
    | .error k => .error k
    | .ok h =>
      match pduDecode (bytes.drop Config.headerLen) with
      | .error k => .error k
      | .ok pdu => .ok (h, pdu)

end Sys2Proof.Machine
end

