-- ==== Sys2Proof/Machine/Responses.lean ====
section
/-! DEFINITION. The response decodes (`DEC`) of the 15 operations by response format
(spec/30_encoding.md R59; spec/44_operations.md R163 to R178). `none` is the spec's `refuse`: the payload is
shorter than the bytes the decode names (R178). No decode checks more than it says (R179). -/

namespace Sys2Proof.Machine

/-- PB: skip the byte count, unpack the wanted bits (R163). -/
def decodePB (qty : Nat) : List Byte → Option Result
  | [] => none
  | _ :: data => (unpackChecked data qty).map fun bits => .ok (.bools bits)

/-- PW: skip the byte count, all the rest is words (R165). -/
def decodePW : List Byte → Option Result
  | [] => none
  | _ :: data => some (.ok (.words (bytesToWords data)))

/-- PW0: as PW, but a byte count of 0 gives the empty array (R171). -/
def decodePW0 : List Byte → Option Result
  | [] => none
  | byteCount :: data => some (.ok (.words (if 0 < byteCount.toNat then bytesToWords data else [])))

/-- PN: the payload is not looked at (R167, D32). -/
def decodePN (_ : List Byte) : Option Result := some (.ok .nothing)

/-- PC: the echoed count, payload bytes 2 and 3, against the count sent (R169). The offset is PRESUMED, from
general knowledge and not from the source (G1, D10; log entry 17): unsafe. -/
def decodePC (count : Nat) : List Byte → Option Result
  | _ :: _ :: h :: l :: _ =>
    some (if (u16be h l).toNat ≠ count then .err .unexpectedCoilCount else .ok .nothing)
  | _ => none

/-- PE: eight booleans from the first byte (R174). -/
def decodePE : List Byte → Option Result
  | [] => none
  | status :: _ => some (.ok (.bools (unpackBits [status] 8)))

/-- PD: skip the echoed subfunction, all the rest is words (R175). -/
def decodePD : List Byte → Option Result
  | _ :: _ :: data => some (.ok (.words (bytesToWords data)))
  | _ => none

/-- PG: word 0 is the status, word 1 the count (R176); a three-byte payload has two words (U18). -/
def decodePG (payload : List Byte) : Option Result :=
  match bytesToWords payload with
  | status :: count :: _ => some (.ok (.commEvents (decide (0 < status.toNat)) count))
  | _ => none

/-- PR: the payload unmodified (R177). -/
def decodePR (payload : List Byte) : Option Result := some (.ok (.bytes payload))

/-- PF: skip four bytes, all the rest is words (R173). -/
def decodePF : List Byte → Option Result
  | _ :: _ :: _ :: _ :: data => some (.ok (.words (bytesToWords data)))
  | _ => none

/-- The decode of a response format (R59). -/
def decodeResponse : RespFormat → List Byte → Option Result
  | .pb qty => decodePB qty
  | .pw => decodePW
  | .pw0 => decodePW0
  | .pn => decodePN
  | .pc count => decodePC count
  | .pe => decodePE
  | .pd => decodePD
  | .pg => decodePG
  | .pr => decodePR
  | .pf => decodePF

end Sys2Proof.Machine
end

