-- ==== Sys2Proof/Machine/Ops.lean ====
section
/-! DEFINITION. The shared operations: delivering a result and raising an error
(spec/60_exceptions.md R215), the link primitives (spec/20_memory.md R36 to R41), the SEND sequence
(spec/43_transport.md R140) that SEND and the 15 operations run, resuming a command that waited for the link
(R149), and reset (spec/70_reset_and_hazards.md R240, R241). -/

namespace Sys2Proof.Machine

/-- What a step answers. -/
abbrev Out := Host.Outcome State Fault Refusal

/-! ## State updates and the hard-wired element -/

/-- S.PROTO: not storage, the constant 0 (R14). -/
def State.proto (_ : State) : Word := Config.protocolId

/-- Write S.LINK. -/
def State.setLink (s : State) (l : LinkState) : State := { s with link := l }

/-- The increment of S.TXN, modulo 65536 (R12, R141). -/
def State.nextTxn (s : State) : State := { s with txn := s.txn + 1 }

/-- The command ends: its result goes to the host and nothing is in flight. -/
def State.deliver (s : State) (r : Result) : State :=
  { s with inFlight := none, results := s.results ++ [r] }

/-- The command waits for the link. -/
def State.await (s : State) (f : InFlight) : State := { s with inFlight := some f }

/-! ## Ending a command -/

/-- Complete with a result (spec/00_scope.md section 5.3). -/
def complete (r : Result) (s : State) : Out := .next (s.deliver r)

/-- Raise an error: the command returns `Err(k)`; nothing is saved, nothing is vectored, the state is what
the steps before wrote, and MBF is ready for the next command (R215, R217). -/
def raise (k : ErrKind) (s : State) : Out := complete (.err k) s

/-- Complete with what a pure stage computed: `Ok` of its value, or its error. -/
def completeWith {α : Type} (value : α → Value) (r : Except ErrKind α) (s : State) : Out :=
  match r with
  | .ok v => complete (.ok (value v)) s
  | .error k => raise k s

/-- Wait for the link at the given point (R149, R247). -/
def wait (f : InFlight) (s : State) : Out := .next (s.await f)

/-! ## The link primitives -/

/-- The S.LINK value for the link's report `still_open` (R38, R39, D18). -/
def linkIf (stillOpen : Bool) : LinkState := if stillOpen then .connected else .disconnected

/-- The receive queue after the link's report: a lost link discards it (R40). -/
def queueIf (stillOpen : Bool) (queue : List Byte) : List Byte := if stillOpen then queue else []

/-- `LinkConnect()` (R37): the next drawn answer, or `none` while there is none. A new connection starts with
an empty queue (R40). -/
def linkConnect (s : State) : Option (ConnectAnswer × State) :=
  match s.connectIn with
  | [] => none
  | a :: rest =>
    some (a, { s with
      connectIn := rest
      rxQueue := if a = .opened then [] else s.rxQueue
      trace := s.trace ++ [.connect a] })

/-- `LinkWrite(b)` (R38): the next drawn answer, or `none` while there is none. A failure that loses the link
discards the queue (R40). -/
def linkWrite (b : List Byte) (s : State) : Option (WriteAnswer × State) :=
  match s.writeIn with
  | [] => none
  | a :: rest =>
    some (a, { s with
      writeIn := rest
      rxQueue := match a with
        | .written => s.rxQueue
        | .failed stillOpen _ => queueIf stillOpen s.rxQueue
      trace := s.trace ++ [.write b a] })

/-- What one read draw gives on a queue: the answer and the queue after it. The bytes that arrived are
appended first; a read returns and removes the oldest bytes, at most `max` of them; a read of no byte is an
empty read (R39, R40). -/
def readFrom (max : Nat) (queue : List Byte) : ReadDraw → ReadAnswer × List Byte
  | .returns arrived count stillOpen =>
    let all := queue ++ arrived
    let got := all.take (min count max)
    if got = [] then (.empty stillOpen, queueIf stillOpen all) else (.data got, all.drop got.length)
  | .fails arrived stillOpen => (.failed stillOpen, queueIf stillOpen (queue ++ arrived))

/-- `LinkRead(max)` (R39): the next draw's answer, or `none` while the link does not answer (U11). -/
def linkRead (max : Nat) (s : State) : Option (ReadAnswer × State) :=
  match s.readIn with
  | [] => none
  | d :: rest =>
    let (a, queue) := readFrom max s.rxQueue d
    some (a, { s with readIn := rest, rxQueue := queue, trace := s.trace ++ [.read a] })

/-- `LinkClose()` (R41): always answers; the queue is discarded (R40). -/
def linkClose (s : State) : State := { s with rxQueue := [], trace := s.trace ++ [.close] }

/-! ## The end of an exchange -/

/-- Step 3 of R160: the response's function byte is the number `F + 0x80` (R161, without wrap, D7). -/
def isException (function : Byte) (rsp : Pdu) : Bool :=
  decide (rsp.function.toNat = function.toNat + 0x80)

/-- What becomes of the response PDU: SEND returns it (R140 step 10); an operation makes the exception check
and then its decode (R160 steps 3 and 4), and refuses where the payload is too short (R178). -/
def finishExchange (finish : Finish) (rsp : Pdu) (s : State) : Out :=
  match finish with
  | .send => complete (.ok (.pdu rsp)) s
  | .operation function format =>
    if isException function rsp then
      match rsp.payload with
      | [] => .refused .exceptionWithoutCode
      | e :: _ => raise (.protocolException rsp.function e) s
    else
      match decodeResponse format rsp.payload with
      | none => .refused .responseTooShort
      | some r => complete r s

/-! ## SEND, step by step (R140) -/

/-- Steps 8 to 10: decode the response envelope, check the transaction id (R145), hand the PDU on. -/
def sendCheck (finish : Finish) (tid : Word) (b : List Byte) (s : State) : Out :=
  match envelopeDecode b with
  | .error k => raise k s
  | .ok (h, rsp) => if h.transactionId ≠ tid then raise .transactionMismatch s else finishExchange finish rsp s

/-- Step 7: one read of at most 260 bytes (R144); an empty read is a `ReadError`. -/
def sendRead (finish : Finish) (tid : Word) (s : State) : Out :=
  match linkRead Config.rxMax s with
  | none => wait (.reading finish tid) s
  | some (.failed stillOpen, s') => raise .readError (s'.setLink (linkIf stillOpen))
  | some (.empty stillOpen, s') => raise .readError (s'.setLink (linkIf stillOpen))
  | some (.data b, s') => sendCheck finish tid b s'

/-- Step 6: one write of the whole envelope (R143). -/
def sendWrite (finish : Finish) (tid : Word) (envelope : List Byte) (s : State) : Out :=
  match linkWrite envelope s with
  | none => wait (.writing finish tid envelope) s
  | some (.failed stillOpen _, s') => raise .writeError (s'.setLink (linkIf stillOpen))
  | some (.written, s') => sendRead finish tid s'

/-- The header of step 4 (R142), for the encoded PDU `p`. -/
def requestHeader (s : State) (p : List Byte) : Header where
  transactionId := s.txn
  protocolId := s.proto
  length := BitVec.ofNat 16 (p.length + 1)
  unitId := s.unit

/-- Steps 3 to 5: take the next transaction id (R141), build the header, encode the envelope; then write. -/
def sendIssue (finish : Finish) (p : List Byte) (s : State) : Out :=
  sendWrite finish s.nextTxn.txn (headerEncode (requestHeader s.nextTxn p) ++ p) s.nextTxn

/-- Step 2 on a disconnected session: connect first; a failure propagates. -/
def sendOpen (finish : Finish) (p : List Byte) (s : State) : Out :=
  match linkConnect s with
  | none => wait (.opening finish p) s
  | some (.failed, s') => raise .connectionError s'
  | some (.opened, s') => sendIssue finish p (s'.setLink .connected)

/-- Step 2: connect lazily. -/
def sendConnected (finish : Finish) (p : List Byte) (s : State) : Out :=
  match s.link with
  | .connected => sendIssue finish p s
  | .disconnected => sendOpen finish p s

/-- Step 1 and the rest: validate and encode the PDU before any I/O (R146), then exchange it. -/
def exchange (finish : Finish) (pdu : Pdu) (s : State) : Out :=
  match pduEncode pdu with
  | .error k => raise k s
  | .ok p => sendConnected finish p s

/-- An operation (R160): the PDU `[F] ++ REQ`, the exchange, the exception check and the decode. -/
def operation (function : Byte) (request : List Byte) (format : RespFormat) (s : State) : Out :=
  exchange (.operation function format) { function := function, payload := request } s

/-! ## CONNECT's link call, resuming, reset -/

/-- CONNECT from its link call on (R135). -/
def connectOpen (s : State) : Out :=
  match linkConnect s with
  | none => wait .connect s
  | some (.failed, s') => raise .connectionError s'
  | some (.opened, s') => complete (.ok .nothing) (s'.setLink .connected)

/-- Go on with the command in flight at the link call it waits at (R149). While there is no answer the state
does not change: a hang (R247). -/
def resume (f : InFlight) (s : State) : Out :=
  match f with
  | .connect => connectOpen s
  | .opening finish p => sendOpen finish p s
  | .writing finish tid envelope => sendWrite finish tid envelope s
  | .reading finish tid => sendRead finish tid s

/-- With nothing on the port: a command in flight goes on; else the host hands over its next action; with
none MBF waits for a command (R240). -/
def proceed (s : State) : Out :=
  match s.inFlight with
  | some f => resume f s
  | none =>
    match s.program with
    | [] => .next s
    | a :: rest => .next { s with port := some a, program := rest }

/-- The state after a reset of MBF in the middle of a run: MBF's own state is that of reset and the stream is
dropped without an `EvClose` (R240, R241, U9); what the host and the link will do, and what has been
observed, is not MBF's to reset. -/
def State.afterReset (s : State) : State :=
  { State.reset with
    program := s.program
    connectIn := s.connectIn
    writeIn := s.writeIn
    readIn := s.readIn
    results := s.results
    trace := s.trace }

/-- Reset: refused while a command is in flight (R241, U9). -/
def takeReset (s : State) : Out :=
  match s.inFlight with
  | some _ => .refused .resetWhileInFlight
  | none => .next s.afterReset

end Sys2Proof.Machine
end

