-- ==== Sys2Proof/Machine/Convert.lean ====
section
/-! DEFINITION. Layer L0: the word/byte converter and the bit packer (spec/40_convert.md). -/

namespace Sys2Proof.Machine

/-- W2B (R90). -/
def execW2B (words : List Word) (s : State) : Out := complete (.ok (.bytes (wordsToBytes words))) s

/-- B2W (R91). -/
def execB2W (bytes : List Byte) (s : State) : Out := complete (.ok (.words (bytesToWords bytes))) s

/-- PACKB (R92). -/
def execPACKB (bits : List Bool) (s : State) : Out := complete (.ok (.bytes (packBits bits))) s

/-- UNPKB (R93); refused when there are fewer bits than wanted (U1). -/
def execUNPKB (bytes : List Byte) (qty : Nat) (s : State) : Out :=
  match unpackChecked bytes qty with
  | none => .refused .unpackTooFewBits
  | some bits => complete (.ok (.bools bits)) s

end Sys2Proof.Machine
end

