-- ==== Sys2Proof/Machine/Envelope.lean ====
section
/-! DEFINITION. Layer L1: the header and envelope codec's four commands (spec/42_envelope.md). -/

namespace Sys2Proof.Machine

/-- HDRENC (R120). -/
def execHDRENC (h : Header) (s : State) : Out := complete (.ok (.bytes (headerEncode h))) s

/-- HDRDEC (R121). -/
def execHDRDEC (bytes : List Byte) (s : State) : Out := completeWith .header (headerDecode bytes) s

/-- ENVENC (R122). -/
def execENVENC (h : Header) (pdu : Pdu) (s : State) : Out := completeWith .bytes (envelopeEncode h pdu) s

/-- ENVDEC (R123). -/
def execENVDEC (bytes : List Byte) (s : State) : Out :=
  completeWith (fun e => .envelope e.1 e.2) (envelopeDecode bytes) s

end Sys2Proof.Machine
end

