-- ==== Sys2Proof/Machine/Operations.lean ====
section
/-! DEFINITION. Layer L3: the fifteen operations, each its function code, its request (`REQ`, R57) and its
response format (`DEC`, R59) over the one flow of R160 (spec/44_operations.md). -/

namespace Sys2Proof.Machine

/-- RDCOIL (R163). -/
def execRDCOIL (addr qty : Word) (s : State) : Out := operation 0x01 (requestQAQ addr qty) (.pb qty.toNat) s

/-- RDDI (R164). -/
def execRDDI (addr qty : Word) (s : State) : Out := operation 0x02 (requestQAQ addr qty) (.pb qty.toNat) s

/-- RDHR (R165). -/
def execRDHR (addr qty : Word) (s : State) : Out := operation 0x03 (requestQAQ addr qty) .pw s

/-- RDIR (R166). -/
def execRDIR (addr qty : Word) (s : State) : Out := operation 0x04 (requestQAQ addr qty) .pw s

/-- WRCOIL (R167). -/
def execWRCOIL (addr : Word) (val : Bool) (s : State) : Out := operation 0x05 (requestCoil addr val) .pn s

/-- WRREG (R168). -/
def execWRREG (addr val : Word) (s : State) : Out := operation 0x06 (requestQAV addr val) .pn s

/-- RDEXST (R174). -/
def execRDEXST (s : State) : Out := operation 0x07 requestQ0 .pe s

/-- DIAG (R175). -/
def execDIAG (sub : Word) (data : List Word) (s : State) : Out := operation 0x08 (requestQSD sub data) .pd s

/-- GCEC (R176). -/
def execGCEC (s : State) : Out := operation 0x0B requestQ0 .pg s

/-- WRMCOIL (R169). -/
def execWRMCOIL (addr : Word) (vals : List Bool) (s : State) : Out :=
  operation 0x0F (requestQACB addr vals.length (packBits vals)) (.pc vals.length) s

/-- WRMREG (R170). -/
def execWRMREG (addr : Word) (vals : List Word) (s : State) : Out :=
  operation 0x10 (requestQACB addr vals.length (wordsToBytes vals)) .pn s

/-- RPTID (R177). -/
def execRPTID (s : State) : Out := operation 0x11 requestQ0 .pr s

/-- MASKWR (R172). -/
def execMASKWR (addr andMask orMask : Word) (s : State) : Out :=
  operation 0x16 (requestQAMM addr andMask orMask) .pn s

/-- RWMREG (R171). -/
def execRWMREG (raddr rqty waddr : Word) (vals : List Word) (s : State) : Out :=
  operation 0x17 (requestQRW raddr rqty waddr vals) .pw0 s

/-- RDFIFO (R173). -/
def execRDFIFO (addr : Word) (s : State) : Out := operation 0x18 (requestQA addr) .pf s

end Sys2Proof.Machine
end

