-- ==== Sys2Proof/Machine/PduCodec.lean ====
section
/-! DEFINITION. Layer L1: the PDU codec's two commands (spec/41_pdu.md). -/

namespace Sys2Proof.Machine

/-- PDUENC (R111). -/
def execPDUENC (pdu : Pdu) (s : State) : Out := completeWith .bytes (pduEncode pdu) s

/-- PDUDEC (R112). -/
def execPDUDEC (bytes : List Byte) (s : State) : Out := completeWith .pdu (pduDecode bytes) s

end Sys2Proof.Machine
end

