-- ==== Sys2Proof/Machine/Flags.lean ====
section
/-! DEFINITION. What stands in for flags. MBF has no status flags (spec/10_state.md R18); a command's status
is its result. Here are the numbers and classes the spec gives the result: the code of S.LINK (R10), the
status number (R210) and class (R211) of an error, the number (R201) and label (R200) of a category. -/

namespace Sys2Proof.Machine

/-- The code of S.LINK (R10, the spec's own numbers, D13). -/
def LinkState.code : LinkState → Nat
  | .disconnected => 0
  | .connected => 1

/-- The status number of an error kind (R210). -/
def ErrKind.number : ErrKind → Nat
  | .invalidFunctionCode => 1
  | .payloadTooLarge => 2
  | .truncatedPdu => 3
  | .truncatedHeader => 4
  | .truncatedEnvelope => 5
  | .connectionError => 6
  | .notConnected => 7
  | .writeError => 8
  | .readError => 9
  | .transactionMismatch => 10
  | .unexpectedCoilCount => 11
  | .protocolException _ _ => 12

/-- The status number of a result: 0 for `Ok` (R210). -/
def Result.status : Result → Nat
  | .ok _ => 0
  | .err k => k.number

/-- The class of an error kind (R211). -/
def ErrKind.errClass : ErrKind → ErrClass
  | .invalidFunctionCode => .encoding
  | .payloadTooLarge => .encoding
  | .truncatedPdu => .framing
  | .truncatedHeader => .framing
  | .truncatedEnvelope => .framing
  | .connectionError => .transport
  | .notConnected => .transport
  | .writeError => .transport
  | .readError => .transport
  | .transactionMismatch => .framing
  | .unexpectedCoilCount => .applicationConsistency
  | .protocolException _ _ => .protocolException

/-- The category of an exception code (R200). -/
def categoryOf (code : Byte) : Category :=
  match code.toNat with
  | 1 => .illegalFunction
  | 2 => .illegalDataAddress
  | 3 => .illegalDataValue
  | 4 => .serverDeviceFailure
  | 5 => .acknowledge
  | 6 => .serverDeviceBusy
  | 8 => .memoryParityError
  | 10 => .gatewayPathUnavailable
  | 11 => .gatewayTargetDeviceFailedToRespond
  | _ => .unknownException

/-- The number of a category on a hardware result port (R201). -/
def Category.number : Category → Nat
  | .illegalFunction => 1
  | .illegalDataAddress => 2
  | .illegalDataValue => 3
  | .serverDeviceFailure => 4
  | .acknowledge => 5
  | .serverDeviceBusy => 6
  | .memoryParityError => 8
  | .gatewayPathUnavailable => 10
  | .gatewayTargetDeviceFailedToRespond => 11
  | .unknownException => 0

/-- The label of a category, exactly as in the source (R200). -/
def Category.label : Category → String
  | .illegalFunction => "ILLEGAL FUNCTION"
  | .illegalDataAddress => "ILLEGAL DATA ADDRESS"
  | .illegalDataValue => "ILLEGAL DATA VALUE"
  | .serverDeviceFailure => "SERVER DEVICE FAILURE"
  | .acknowledge => "ACKNOWLEDGE"
  | .serverDeviceBusy => "SERVER DEVICE BUSY"
  | .memoryParityError => "MEMORY PARITY ERROR"
  | .gatewayPathUnavailable => "GATEWAY PATH UNAVAILABLE"
  | .gatewayTargetDeviceFailedToRespond => "GATEWAY TARGET DEVICE FAILED TO RESPOND"
  | .unknownException => "UNKNOWN EXCEPTION"

/-- The request function the host infers from a protocol exception's code, `code - 128` (R202). -/
def requestFunctionOf (code : Byte) : Nat := code.toNat - 128

end Sys2Proof.Machine
end

