-- ==== Sys2Proof/Machine/Taxonomy.lean ====
section
/-! DEFINITION. Layer L3: the exception category lookup (spec/45_taxonomy.md). -/

namespace Sys2Proof.Machine

/-- EXCLBL (R200). -/
def execEXCLBL (code : Byte) (s : State) : Out := complete (.ok (.category (categoryOf code))) s

end Sys2Proof.Machine
end

