-- ==== Sys2Proof/Machine/Transport.lean ====
section
/-! DEFINITION. Layer L2: CONNECT, CLOSE and SEND (spec/43_transport.md). -/

namespace Sys2Proof.Machine

/-- CONNECT (R135); refused while the link is connected (U2). -/
def execCONNECT (s : State) : Out :=
  match s.link with
  | .connected => .refused .connectWhileConnected
  | .disconnected => connectOpen s

/-- CLOSE (R137). -/
def execCLOSE (s : State) : Out :=
  match s.link with
  | .disconnected => raise .notConnected s
  | .connected => complete (.ok .nothing) ((linkClose s).setLink .disconnected)

/-- SEND (R140). -/
def execSEND (pdu : Pdu) (s : State) : Out := exchange .send pdu s

end Sys2Proof.Machine
end

