-- ==== Sys2Proof/Machine/Dispatch.lean ====
section
/-! DEFINITION. One arm per command (spec/30_encoding.md R63). -/

namespace Sys2Proof.Machine

def exec (i : Instr) (s : State) : Host.Outcome State Fault Refusal :=
  match i with
  | .rdcoil addr qty => Sys2Proof.Machine.execRDCOIL addr qty s
  | .rddi addr qty => Sys2Proof.Machine.execRDDI addr qty s
  | .rdhr addr qty => Sys2Proof.Machine.execRDHR addr qty s
  | .rdir addr qty => Sys2Proof.Machine.execRDIR addr qty s
  | .wrcoil addr val => Sys2Proof.Machine.execWRCOIL addr val s
  | .wrreg addr val => Sys2Proof.Machine.execWRREG addr val s
  | .rdexst => Sys2Proof.Machine.execRDEXST s
  | .diag sub data => Sys2Proof.Machine.execDIAG sub data s
  | .gcec => Sys2Proof.Machine.execGCEC s
  | .wrmcoil addr vals => Sys2Proof.Machine.execWRMCOIL addr vals s
  | .wrmreg addr vals => Sys2Proof.Machine.execWRMREG addr vals s
  | .rptid => Sys2Proof.Machine.execRPTID s
  | .maskwr addr andMask orMask => Sys2Proof.Machine.execMASKWR addr andMask orMask s
  | .rwmreg raddr rqty waddr vals => Sys2Proof.Machine.execRWMREG raddr rqty waddr vals s
  | .rdfifo addr => Sys2Proof.Machine.execRDFIFO addr s
  | .connect => Sys2Proof.Machine.execCONNECT s
  | .close => Sys2Proof.Machine.execCLOSE s
  | .send pdu => Sys2Proof.Machine.execSEND pdu s
  | .w2b words => Sys2Proof.Machine.execW2B words s
  | .b2w bytes => Sys2Proof.Machine.execB2W bytes s
  | .packb bits => Sys2Proof.Machine.execPACKB bits s
  | .unpkb bytes qty => Sys2Proof.Machine.execUNPKB bytes qty s
  | .pduenc pdu => Sys2Proof.Machine.execPDUENC pdu s
  | .pdudec bytes => Sys2Proof.Machine.execPDUDEC bytes s
  | .hdrenc header => Sys2Proof.Machine.execHDRENC header s
  | .hdrdec bytes => Sys2Proof.Machine.execHDRDEC bytes s
  | .envenc header pdu => Sys2Proof.Machine.execENVENC header pdu s
  | .envdec bytes => Sys2Proof.Machine.execENVDEC bytes s
  | .exclbl code => Sys2Proof.Machine.execEXCLBL code s

end Sys2Proof.Machine
end

