-- ==== Sys2Proof/WellFormed.lean ====
section
/-! DEFINITION. Which commands the host channel can name. Every operand range of R65 is in the types of
`Instr` but one: UNPKB's count is a natural number (R93), and the command message of the model carries it
in four bytes (DESIGN CHOICE, log entry 11). -/

namespace Sys2Proof

/-- The command has a message on the host channel. -/
def Instr.wellFormed : Instr → Bool
  | .rdcoil _ _ => true
  | .rddi _ _ => true
  | .rdhr _ _ => true
  | .rdir _ _ => true
  | .wrcoil _ _ => true
  | .wrreg _ _ => true
  | .rdexst => true
  | .diag _ _ => true
  | .gcec => true
  | .wrmcoil _ _ => true
  | .wrmreg _ _ => true
  | .rptid => true
  | .maskwr _ _ _ => true
  | .rwmreg _ _ _ _ => true
  | .rdfifo _ => true
  | .connect => true
  | .close => true
  | .send _ => true
  | .w2b _ => true
  | .b2w _ => true
  | .packb _ => true
  | .unpkb _ qty => decide (qty < 4294967296)
  | .pduenc _ => true
  | .pdudec _ => true
  | .hdrenc _ => true
  | .hdrdec _ => true
  | .envenc _ _ => true
  | .envdec _ => true
  | .exclbl _ => true

end Sys2Proof
end

