-- ==== Sys2Proof/Decode.lean ====
section
/-! DEFINITION. The host channel's command messages: one byte of command code (spec/30_encoding.md R63) and
the operand bytes. For the 15 operations the message is the request PDU of R57; for the other 14 commands
the spec gives operand names (R65) and no layout, and the layout here is the model's own (DESIGN CHOICE,
log entry 9). The decoder is total and rejects by name (R64, U8); the encoder stands after it. -/

namespace Sys2Proof

open Sys2Proof.Machine

/-- Why a message names no command. -/
inductive DecodeError where
  /-- The message is empty. -/
  | empty
  /-- R63 does not assign the command code (R64). -/
  | reserved (code : Byte)
  /-- The operand bytes are no operands of the code. -/
  | operands (code : Byte)
deriving DecidableEq, Repr

/-- No operand bytes (formats Q0, CMD0). -/
def parseNone (i : Instr) : List Byte → Option Instr
  | [] => some i
  | _ => none

/-- One byte (CMD-U8). -/
def parseByte (f : Byte → Instr) : List Byte → Option Instr
  | [b] => some (f b)
  | _ => none

/-- One word (format QA). -/
def parseWord1 (f : Word → Instr) : List Byte → Option Instr
  | [h, l] => some (f (u16be h l))
  | _ => none

/-- Two words (formats QAQ, QAV). -/
def parseWord2 (f : Word → Word → Instr) : List Byte → Option Instr
  | [h, l, h', l'] => some (f (u16be h l) (u16be h' l'))
  | _ => none

/-- Three words (format QAMM). -/
def parseWord3 (f : Word → Word → Word → Instr) : List Byte → Option Instr
  | [h, l, h', l', h'', l''] => some (f (u16be h l) (u16be h' l') (u16be h'' l''))
  | _ => none

/-- WRCOIL: an address and one of the two value fields (R56). -/
def parseCoil : List Byte → Option Instr
  | h :: l :: val =>
    if val = coilField true then some (.wrcoil (u16be h l) true)
    else if val = coilField false then some (.wrcoil (u16be h l) false)
    else none
  | _ => none

/-- A word array to the end of the message: an even number of bytes. -/
def parseWords (bytes : List Byte) : Option (List Word) :=
  if bytes.length % 2 = 0 then some (bytesToWords bytes) else none

/-- Format QSD: the subfunction, then data words to the end (R57). -/
def parseDiag : List Byte → Option Instr
  | h :: l :: data => (parseWords data).map (Instr.diag (u16be h l))
  | _ => none

/-- The element count of a packed bit array, from its number of data bytes and the low bits of its count
field: the one count that the array's length in bytes admits (R57). -/
def coilCount (dataLen : Nat) (count : Word) : Nat :=
  if dataLen = 0 then 0 else 8 * (dataLen - 1) + (count.toNat + 7) % 8 + 1

/-- Format QACB of WRMCOIL: address, count, byte count, packed data, each field as R56 computes it from the
array. -/
def parseCoils : List Byte → Option Instr
  | h :: l :: ch :: cl :: bc :: data =>
    let vals := unpackBits data (coilCount data.length (u16be ch cl))
    if h :: l :: ch :: cl :: bc :: data = requestQACB (u16be h l) vals.length (packBits vals) then
      some (.wrmcoil (u16be h l) vals)
    else none
  | _ => none

/-- Format QACB of WRMREG: address, count, byte count, words, each field as R56 computes it from the
array. -/
def parseRegisters : List Byte → Option Instr
  | h :: l :: ch :: cl :: bc :: data =>
    if h :: l :: ch :: cl :: bc :: data
        = requestQACB (u16be h l) (bytesToWords data).length (wordsToBytes (bytesToWords data)) then
      some (.wrmreg (u16be h l) (bytesToWords data))
    else none
  | _ => none

/-- Format QRW of RWMREG: three words, write quantity, byte count, words (R57). -/
def parseReadWrite : List Byte → Option Instr
  | rh :: rl :: qh :: ql :: wh :: wl :: ch :: cl :: bc :: data =>
    if rh :: rl :: qh :: ql :: wh :: wl :: ch :: cl :: bc :: data
        = requestQRW (u16be rh rl) (u16be qh ql) (u16be wh wl) (bytesToWords data) then
      some (.rwmreg (u16be rh rl) (u16be qh ql) (u16be wh wl) (bytesToWords data))
    else none
  | _ => none

/-- A PDU: the function byte, then the payload to the end (CMD-PDU). -/
def parsePdu (f : Pdu → Instr) : List Byte → Option Instr
  | fn :: payload => some (f { function := fn, payload := payload })
  | _ => none

/-- A bit array to the end of the message, one byte a bit, 0 or 1 (CMD-SEQ of PACKB). -/
def parseBools : List Byte → Option (List Bool)
  | [] => some []
  | b :: rest =>
    if b = 0 then (parseBools rest).map (false :: ·)
    else if b = 1 then (parseBools rest).map (true :: ·)
    else none

/-- UNPKB: the count in four bytes, high byte first, then the bytes to the end (CMD-SEQ). -/
def parseUnpack : List Byte → Option Instr
  | a :: b :: c :: d :: bytes =>
    some (.unpkb bytes (16777216 * a.toNat + 65536 * b.toNat + 256 * c.toNat + d.toNat))
  | _ => none

/-- The four header fields (CMD-HDR), in the order of R51. -/
def parseHeader (f : Header → Instr) : List Byte → Option Instr
  | [th, tl, ph, pl, lh, ll, u] =>
    some (f { transactionId := u16be th tl, protocolId := u16be ph pl, length := u16be lh ll, unitId := u })
  | _ => none

/-- The four header fields, then a PDU (CMD-HDR-PDU). -/
def parseHeaderPdu (f : Header → Pdu → Instr) : List Byte → Option Instr
  | th :: tl :: ph :: pl :: lh :: ll :: u :: fn :: payload =>
    some (f { transactionId := u16be th tl, protocolId := u16be ph pl, length := u16be lh ll, unitId := u }
      { function := fn, payload := payload })
  | _ => none

/-- The command code table (R63) with the operand parser of each row; `none` for a reserved code (R64). -/
def operandParser : Nat → Option (List Byte → Option Instr)
  | 0x01 => some (parseWord2 .rdcoil)
  | 0x02 => some (parseWord2 .rddi)
  | 0x03 => some (parseWord2 .rdhr)
  | 0x04 => some (parseWord2 .rdir)
  | 0x05 => some parseCoil
  | 0x06 => some (parseWord2 .wrreg)
  | 0x07 => some (parseNone .rdexst)
  | 0x08 => some parseDiag
  | 0x0B => some (parseNone .gcec)
  | 0x0F => some parseCoils
  | 0x10 => some parseRegisters
  | 0x11 => some (parseNone .rptid)
  | 0x16 => some (parseWord3 .maskwr)
  | 0x17 => some parseReadWrite
  | 0x18 => some (parseWord1 .rdfifo)
  | 0xC0 => some (parseNone .connect)
  | 0xC1 => some (parseNone .close)
  | 0xC2 => some (parsePdu .send)
  | 0xD0 => some fun bytes => (parseWords bytes).map .w2b
  | 0xD1 => some fun bytes => some (.b2w bytes)
  | 0xD2 => some fun bytes => (parseBools bytes).map .packb
  | 0xD3 => some parseUnpack
  | 0xE0 => some (parsePdu .pduenc)
  | 0xE1 => some fun bytes => some (.pdudec bytes)
  | 0xE2 => some (parseHeader .hdrenc)
  | 0xE3 => some fun bytes => some (.hdrdec bytes)
  | 0xE4 => some (parseHeaderPdu .envenc)
  | 0xE5 => some fun bytes => some (.envdec bytes)
  | 0xF0 => some (parseByte .exclbl)
  | _ => none

/-- The command a message names, or why it names none. -/
def decode : List Byte → Except DecodeError Instr
  | [] => .error .empty
  | code :: operands =>
    match operandParser code.toNat with
    | none => .error (.reserved code)
    | some parse =>
      match parse operands with
      | none => .error (.operands code)
      | some i => .ok i

/-- The command code of a command (R63). -/
def commandCode : Instr → Byte
  | .rdcoil _ _ => 0x01
  | .rddi _ _ => 0x02
  | .rdhr _ _ => 0x03
  | .rdir _ _ => 0x04
  | .wrcoil _ _ => 0x05
  | .wrreg _ _ => 0x06
  | .rdexst => 0x07
  | .diag _ _ => 0x08
  | .gcec => 0x0B
  | .wrmcoil _ _ => 0x0F
  | .wrmreg _ _ => 0x10
  | .rptid => 0x11
  | .maskwr _ _ _ => 0x16
  | .rwmreg _ _ _ _ => 0x17
  | .rdfifo _ => 0x18
  | .connect => 0xC0
  | .close => 0xC1
  | .send _ => 0xC2
  | .w2b _ => 0xD0
  | .b2w _ => 0xD1
  | .packb _ => 0xD2
  | .unpkb _ _ => 0xD3
  | .pduenc _ => 0xE0
  | .pdudec _ => 0xE1
  | .hdrenc _ => 0xE2
  | .hdrdec _ => 0xE3
  | .envenc _ _ => 0xE4
  | .envdec _ => 0xE5
  | .exclbl _ => 0xF0

/-- The header fields as operand bytes, in the order of R51. -/
def headerOperands (h : Header) : List Byte :=
  be16 h.transactionId ++ be16 h.protocolId ++ be16 h.length ++ [h.unitId]

/-- A count in four bytes, high byte first. -/
def be32 (n : Nat) : List Byte :=
  [BitVec.ofNat 8 (n / 16777216), BitVec.ofNat 8 (n / 65536), BitVec.ofNat 8 (n / 256), BitVec.ofNat 8 n]

/-- The operand bytes of a command: for an operation its request payload (R57). -/
def operandBytes : Instr → List Byte
  | .rdcoil addr qty => requestQAQ addr qty
  | .rddi addr qty => requestQAQ addr qty
  | .rdhr addr qty => requestQAQ addr qty
  | .rdir addr qty => requestQAQ addr qty
  | .wrcoil addr val => requestCoil addr val
  | .wrreg addr val => requestQAV addr val
  | .rdexst => requestQ0
  | .diag sub data => requestQSD sub data
  | .gcec => requestQ0
  | .wrmcoil addr vals => requestQACB addr vals.length (packBits vals)
  | .wrmreg addr vals => requestQACB addr vals.length (wordsToBytes vals)
  | .rptid => requestQ0
  | .maskwr addr andMask orMask => requestQAMM addr andMask orMask
  | .rwmreg raddr rqty waddr vals => requestQRW raddr rqty waddr vals
  | .rdfifo addr => requestQA addr
  | .connect => []
  | .close => []
  | .send pdu => pdu.function :: pdu.payload
  | .w2b words => wordsToBytes words
  | .b2w bytes => bytes
  | .packb bits => bits.map fun b => if b then 1 else 0
  | .unpkb bytes qty => be32 qty ++ bytes
  | .pduenc pdu => pdu.function :: pdu.payload
  | .pdudec bytes => bytes
  | .hdrenc h => headerOperands h
  | .hdrdec bytes => bytes
  | .envenc h pdu => headerOperands h ++ pdu.function :: pdu.payload
  | .envdec bytes => bytes
  | .exclbl code => [code]

/-- The command message of a command: its code, then its operand bytes. -/
def encode (i : Instr) : List Byte := commandCode i :: operandBytes i

/-- The fewest bytes a message of this code has, the code's own byte among them (R57, R65). -/
def minMessageLen : Nat → Nat
  | 0x01 => 5
  | 0x02 => 5
  | 0x03 => 5
  | 0x04 => 5
  | 0x05 => 5
  | 0x06 => 5
  | 0x08 => 3
  | 0x0F => 6
  | 0x10 => 6
  | 0x16 => 7
  | 0x17 => 10
  | 0x18 => 3
  | 0xC2 => 2
  | 0xD3 => 5
  | 0xE0 => 2
  | 0xE2 => 8
  | 0xE4 => 9
  | 0xF0 => 2
  | _ => 1

/-- The message whose bits are `w`, numbered as spec/opcode_table.json numbers them (bit 0 is the least
significant bit of the first byte), with zero operand bytes up to the shortest message of its code
(log entry 28). -/
def tableMessage (nbits w : Nat) : List Byte :=
  let bytes := (List.range ((nbits + 7) / 8)).map fun k => BitVec.ofNat 8 (w / 2 ^ (8 * k))
  bytes ++ List.replicate (minMessageLen (w % 256) - bytes.length) 0

/-- What the decoder reads from the table word `w` of `nbits` bits. -/
def decodeTableWord (nbits w : Nat) : Option Instr :=
  match decode (tableMessage nbits w) with
  | .ok i => some i
  | .error _ => none

end Sys2Proof
end

