-- ==== Sys2Proof/Machine/Fetch.lean ====
section
/-! DEFINITION. Taking a command message off the host port (spec/10_state.md R22, spec/30_encoding.md R64):
refused while a command is in flight (U3), on a reserved code (U8) and on bytes that name no command. -/

namespace Sys2Proof.Machine

/-- The refusal for a message that names no command. -/
def refusalOf : DecodeError → Refusal
  | .empty => .emptyCommand
  | .reserved code => .reservedCommandCode code
  | .operands code => .malformedOperands code

/-- The command on the port and the state with the port free again, or the refusal. -/
def fetch (message : List Byte) (s : State) : Except Refusal (Instr × State) :=
  match s.inFlight with
  | some _ => .error .commandWhileInFlight
  | none =>
    match decode message with
    | .error e => .error (refusalOf e)
    | .ok i => .ok (i, { s with port := none })

/-- The state with the table word's message on the port and nothing in flight. -/
def presentWord (s : State) (nbits w : Nat) : State :=
  { s with port := some (.command (tableMessage nbits w)), inFlight := none }

end Sys2Proof.Machine
end

