-- ==== Sys2Proof/Machine/Step.lean ====
section
/-! DEFINITION. One step of an MBF instance with its host and link: take what is on the host port, or go on
(spec/00_scope.md R9, spec/10_state.md R17, R22). -/

namespace Sys2Proof.Machine

/-- One step. A command on the port is decoded and executed; a reset on the port resets; with nothing on the
port the command in flight goes on, or the host hands over its next action, or MBF waits. -/
def step (s : State) : Host.Outcome State Fault Refusal :=
  match s.port with
  | some (.command message) =>
    match fetch message s with
    | .error r => .refused r
    | .ok (i, s') => exec i s'
  | some .reset => takeReset s
  | none => proceed s

/-- The state in which the very next step runs the command of the table word (log entry 28). -/
def State.withFetchWord (s : State) (nbits w : Nat) : State := presentWord s nbits w

end Sys2Proof.Machine
end

