-- ==== Sys2Proof/Safety.lean ====
section
/-! DEFINITION. The terms the claims are stated in: the request an exchange command puts on the wire, what the
link must answer for an exchange to go through, the state that leaves, how S.LINK follows the link events,
and the invariant of every run. Written from the layouts and tables of the spec, not from the meanings. -/

namespace Sys2Proof.Safety

open Sys2Proof.Machine

/-! ## Requests -/

/-- The request PDU of a command that exchanges one (spec/30_encoding.md R57, R62); the 13 other commands
have none. -/
def requestPdu : Instr → Option Pdu
  | .rdcoil addr qty => some ⟨1, be16 addr ++ be16 qty⟩
  | .rddi addr qty => some ⟨2, be16 addr ++ be16 qty⟩
  | .rdhr addr qty => some ⟨3, be16 addr ++ be16 qty⟩
  | .rdir addr qty => some ⟨4, be16 addr ++ be16 qty⟩
  | .wrcoil addr val => some ⟨5, be16 addr ++ if val then [0xFF, 0x00] else [0x00, 0x00]⟩
  | .wrreg addr val => some ⟨6, be16 addr ++ be16 val⟩
  | .rdexst => some ⟨7, []⟩
  | .diag sub data => some ⟨8, be16 sub ++ wordsToBytes data⟩
  | .gcec => some ⟨11, []⟩
  | .wrmcoil addr vals =>
    some ⟨15, be16 addr ++ be16 (BitVec.ofNat 16 vals.length)
      ++ [BitVec.ofNat 8 ((vals.length + 7) / 8)] ++ packBits vals⟩
  | .wrmreg addr vals =>
    some ⟨16, be16 addr ++ be16 (BitVec.ofNat 16 vals.length)
      ++ [BitVec.ofNat 8 (2 * vals.length)] ++ wordsToBytes vals⟩
  | .rptid => some ⟨17, []⟩
  | .maskwr addr andMask orMask => some ⟨22, be16 addr ++ be16 andMask ++ be16 orMask⟩
  | .rwmreg raddr rqty waddr vals =>
    some ⟨23, be16 raddr ++ be16 rqty ++ be16 waddr ++ be16 (BitVec.ofNat 16 vals.length)
      ++ [BitVec.ofNat 8 (2 * vals.length)] ++ wordsToBytes vals⟩
  | .rdfifo addr => some ⟨24, be16 addr⟩
  | .send pdu => some pdu
  | .connect => none
  | .close => none
  | .w2b _ => none
  | .b2w _ => none
  | .packb _ => none
  | .unpkb _ _ => none
  | .pduenc _ => none
  | .pdudec _ => none
  | .hdrenc _ => none
  | .hdrdec _ => none
  | .envenc _ _ => none
  | .envdec _ => none
  | .exclbl _ => none

/-- The response format of each operation (R59, R62). SEND has none: it returns the PDU. -/
def responseFormat : Instr → Option RespFormat
  | .rdcoil _ qty => some (.pb qty.toNat)
  | .rddi _ qty => some (.pb qty.toNat)
  | .rdhr _ _ => some .pw
  | .rdir _ _ => some .pw
  | .wrcoil _ _ => some .pn
  | .wrreg _ _ => some .pn
  | .rdexst => some .pe
  | .diag _ _ => some .pd
  | .gcec => some .pg
  | .wrmcoil _ vals => some (.pc vals.length)
  | .wrmreg _ _ => some .pn
  | .rptid => some .pr
  | .maskwr _ _ _ => some .pn
  | .rwmreg _ _ _ _ => some .pw0
  | .rdfifo _ => some .pf
  | .send _ => none
  | .connect => none
  | .close => none
  | .w2b _ => none
  | .b2w _ => none
  | .packb _ => none
  | .unpkb _ _ => none
  | .pduenc _ => none
  | .pdudec _ => none
  | .hdrenc _ => none
  | .hdrdec _ => none
  | .envenc _ _ => none
  | .envdec _ => none
  | .exclbl _ => none

/-- The eleven stages: layers L0 and L1 and EXCLBL, pure functions of their operands (R24). -/
def isStage : Instr → Bool
  | .w2b _ => true
  | .b2w _ => true
  | .packb _ => true
  | .unpkb _ _ => true
  | .pduenc _ => true
  | .pdudec _ => true
  | .hdrenc _ => true
  | .hdrdec _ => true
  | .envenc _ _ => true
  | .envdec _ => true
  | .exclbl _ => true
  | .rdcoil _ _ => false
  | .rddi _ _ => false
  | .rdhr _ _ => false
  | .rdir _ _ => false
  | .wrcoil _ _ => false
  | .wrreg _ _ => false
  | .rdexst => false
  | .diag _ _ => false
  | .gcec => false
  | .wrmcoil _ _ => false
  | .wrmreg _ _ => false
  | .rptid => false
  | .maskwr _ _ _ => false
  | .rwmreg _ _ _ _ => false
  | .rdfifo _ => false
  | .connect => false
  | .close => false
  | .send _ => false

/-- The envelope that carries the encoded PDU `p` (R50, R53, R142): id, protocol id 0, `len(p) + 1`, unit
id, PDU. -/
def requestEnvelope (tid : Word) (unit : Byte) (p : List Byte) : List Byte :=
  be16 tid ++ [0, 0] ++ be16 (BitVec.ofNat 16 (p.length + 1)) ++ [unit] ++ p

/-! ## An exchange that goes through -/

/-- The state with the command's result handed to the host and nothing in flight. -/
def answered (s : State) (r : Result) : State :=
  { s with inFlight := none, results := s.results ++ [r] }

/-- Step 2 of R140 leaves the link open: it is open already, or `LinkConnect` answers `Opened`. -/
def LinkReady (s t : State) : Prop :=
  (s.link = .connected ∧ t = s) ∨
  (s.link = .disconnected ∧ ∃ rest, s.connectIn = .opened :: rest ∧
    t = { s with
      link := .connected, connectIn := rest, rxQueue := [], trace := s.trace ++ [.connect .opened] })

/-- Steps 3 to 6 of R140 go through: the counter advances and the whole envelope is written. -/
def Wrote (s : State) (p : List Byte) (t : State) : Prop :=
  ∃ rest, s.writeIn = .written :: rest ∧
    t = { s with
      txn := s.txn + 1, writeIn := rest,
      trace := s.trace ++ [.write (requestEnvelope (s.txn + 1) s.unit p) .written] }

/-- Step 7 of R140 goes through: one read returns the bytes `b`, at least one and at most 260, the oldest of
the receive queue with what has arrived (R39, R40). -/
def Received (s : State) (b : List Byte) (t : State) : Prop :=
  ∃ arrived count stillOpen rest, s.readIn = .returns arrived count stillOpen :: rest ∧
    b = (s.rxQueue ++ arrived).take (min count 260) ∧ b ≠ [] ∧
    t = { s with
      readIn := rest, rxQueue := (s.rxQueue ++ arrived).drop b.length,
      trace := s.trace ++ [.read (.data b)] }

/-- Steps 2 to 7 of R140 go through with the encoded request PDU `p` and the response bytes `b`. -/
def Exchanged (s : State) (p b : List Byte) (t : State) : Prop :=
  ∃ s0 s1, LinkReady s s0 ∧ Wrote s0 p s1 ∧ Received s1 b t

/-- Steps 2 to 9 go through: the response carries the request's id, any other header bytes, and the PDU
`{f, payload}`. -/
def Replied (s : State) (p : List Byte) (f : Byte) (payload : List Byte) (t : State) : Prop :=
  ∃ x1 x0 l1 l0 u,
    Exchanged s p (be16 (s.txn + 1) ++ [x1, x0, l1, l0, u] ++ f :: payload) t

/-- The bytes the peer appended for a read draw (R40). -/
def arrivals : ReadDraw → List Byte
  | .returns arrived _ _ => arrived
  | .fails arrived _ => arrived

/-- The first `n` bits of packed data, least significant bit first (R31). -/
def bitsOf (data : List Byte) (n : Nat) : List Bool :=
  (List.range n).map fun i => (data.getD (i / 8) 0).getLsbD (i % 8)

/-! ## Link events -/

/-- S.LINK for the link's report. -/
def reported (stillOpen : Bool) : LinkState := if stillOpen then .connected else .disconnected

/-- S.LINK after one link event (R20). -/
def linkAfter (l : LinkState) : LinkEvent → LinkState
  | .connect .opened => .connected
  | .connect .failed => l
  | .write _ .written => l
  | .write _ (.failed stillOpen _) => reported stillOpen
  | .read (.data _) => l
  | .read (.empty stillOpen) => reported stillOpen
  | .read (.failed stillOpen) => reported stillOpen
  | .close => .disconnected

/-- The link calls `evs` of one step in the order of R43, where `waiting` is what the step found in flight:
`LinkClose` alone, by a command that starts, or `LinkConnect`, `LinkWrite`, `LinkRead`, each at most once,
nothing after a failed connect and no read after a failed write. A read comes right after a write that answered
`Written`, or stands alone in a step that resumes a command at its read. A command resumed at its write does not
connect again, one resumed at its read does neither again, and CONNECT makes no other call. -/
def InCallOrder (waiting : Option InFlight) (evs : List LinkEvent) : Prop :=
  (waiting = none ∧ evs = [.close]) ∨
  ∃ c w r : List LinkEvent, evs = c ++ w ++ r ∧
    (c = [] ∨ c = [.connect .opened] ∨ (c = [.connect .failed] ∧ w = [] ∧ r = [])) ∧
    (w = [] ∨ (∃ b, w = [.write b .written]) ∨ (∃ b o n, w = [.write b (.failed o n)] ∧ r = [])) ∧
    (r = [] ∨ ∃ a, r = [.read a] ∧
      ((∃ b, w = [.write b .written]) ∨
        (c = [] ∧ w = [] ∧ ∃ finish tid, waiting = some (.reading finish tid)))) ∧
    (∀ finish tid envelope, waiting = some (.writing finish tid envelope) → c = []) ∧
    (∀ finish tid, waiting = some (.reading finish tid) → c = [] ∧ w = []) ∧
    (waiting = some .connect → w = [] ∧ r = [])

/-- The bytes the peer receives by the writes of a trace: all of a successful one, the drawn prefix of a
failed one (R38, R43). -/
def peerReceives : List LinkEvent → List Byte
  | [] => []
  | .write b .written :: rest => b ++ peerReceives rest
  | .write b (.failed _ delivered) :: rest => b.take delivered ++ peerReceives rest
  | _ :: rest => peerReceives rest

/-- The `LinkConnect` that step 2 makes on a disconnected session. -/
def openingEvents (l : LinkState) : List LinkEvent :=
  match l with
  | .connected => []
  | .disconnected => [.connect .opened]

/-! ## The invariant -/

/-- An encoded PDU that SEND may put on the wire (R52, R54): function not 0, 1 to 253 bytes. -/
def Sendable (p : List Byte) : Prop :=
  ∃ function payload, p = function :: payload ∧ function ≠ 0 ∧ payload.length ≤ 252

/-- The function code and response format belong together (R62). -/
def finishWf : Finish → Bool
  | .send => true
  | .operation function (.pb _) => function = 1 || function = 2
  | .operation function .pw => function = 3 || function = 4
  | .operation function .pw0 => function = 23
  | .operation function .pn => function = 5 || function = 6 || function = 16 || function = 22
  | .operation function (.pc _) => function = 15
  | .operation function .pe => function = 7
  | .operation function .pd => function = 8
  | .operation function .pg => function = 11
  | .operation function .pr => function = 17
  | .operation function .pf => function = 24

/-- A waiting command fits the session: CONNECT and step 2 wait while disconnected, steps 6 and 7 while
connected, with the current counter as the request's id and a well-built envelope. -/
def FlightWf (s : State) : InFlight → Prop
  | .connect => s.link = .disconnected
  | .opening finish p => s.link = .disconnected ∧ finishWf finish = true ∧ Sendable p
  | .writing finish tid envelope =>
    s.link = .connected ∧ finishWf finish = true ∧ tid = s.txn ∧
      ∃ p, Sendable p ∧ envelope = requestEnvelope tid s.unit p
  | .reading finish tid => s.link = .connected ∧ finishWf finish = true ∧ tid = s.txn

/-- An envelope as SEND builds it (R53, R54): 8 to 260 bytes, protocol id 0, the length field counting the
bytes from offset 6 on, function not 0. -/
def EnvelopeWf (e : List Byte) : Prop :=
  8 ≤ e.length ∧ e.length ≤ 260 ∧ e[2]? = some 0 ∧ e[3]? = some 0 ∧ e[4]? = some 0 ∧
    e[5]? = some (BitVec.ofNat 8 (e.length - 6)) ∧ e[7]? ≠ some 0

/-- What holds of MBF and its link in every run: a session that is not connected has no bytes queued (R40); a
waiting command fits the session; every envelope ever handed to the link is well built (R53, R54); every read
returned 1 to 260 bytes (R39). -/
def Inv (s : State) : Prop :=
  (s.link = .disconnected → s.rxQueue = []) ∧
  (∀ f, s.inFlight = some f → FlightWf s f) ∧
  (∀ e a, LinkEvent.write e a ∈ s.trace → EnvelopeWf e) ∧
  (∀ b, LinkEvent.read (.data b) ∈ s.trace → 1 ≤ b.length ∧ b.length ≤ 260)

end Sys2Proof.Safety
end

