-- ==== Sys2Proof/Certificates/Slice0/Obligations.lean ====
section
/-! DEFINITION. The statements for the provers. Each formalises a rule of spec/ or is derived from its
sections; the docstring says which. Where a statement gives the whole next state, that is its frame: every
field it does not name is as before. -/

open Sys2Proof Sys2Proof.Machine Sys2Proof.Safety

/-! ## Layer L0 -/

/-- R90: W2B completes with two bytes for each word, the byte of higher weight first; nothing else changes. -/
def Obligations.WordsToBytesBigEndian : Prop :=
  ∀ (words : List Word) (s : State), ∃ out : List Byte,
    exec (.w2b words) s = .next (answered s (.ok (.bytes out))) ∧
    out.length = 2 * words.length ∧
    ∀ i w, words[i]? = some w →
      out[2 * i]? = some (BitVec.ofNat 8 (w.toNat / 256)) ∧
      out[2 * i + 1]? = some (BitVec.ofNat 8 (w.toNat % 256))

/-- R91: B2W completes with one word for each pair of bytes, and a last word from a single trailing byte. -/
def Obligations.BytesToWordsWithOddTail : Prop :=
  ∀ (bytes : List Byte) (s : State), ∃ out : List Word,
    exec (.b2w bytes) s = .next (answered s (.ok (.words out))) ∧
    out.length = (bytes.length + 1) / 2 ∧
    (∀ i h l, bytes[2 * i]? = some h → bytes[2 * i + 1]? = some l →
      out[i]? = some (BitVec.ofNat 16 (256 * h.toNat + l.toNat))) ∧
    (∀ i b, bytes.length = 2 * i + 1 → bytes[2 * i]? = some b → out[i]? = some (b.setWidth 16))

/-- R92: PACKB completes with element `8k + j` as bit `j` of byte `k`, the unused high bits zero. -/
def Obligations.PackBitsLeastSignificantFirst : Prop :=
  ∀ (bits : List Bool) (s : State), ∃ out : List Byte,
    exec (.packb bits) s = .next (answered s (.ok (.bytes out))) ∧
    out.length = (bits.length + 7) / 8 ∧
    ∀ k j byte, out[k]? = some byte → j < 8 → byte.getLsbD j = bits.getD (8 * k + j) false

/-- R93: UNPKB completes with exactly `qty` booleans, element `i` from bit `i mod 8` of byte `i div 8`, and is
refused when there are fewer bits than that. -/
def Obligations.UnpackBitsOrRefuse : Prop :=
  ∀ (bytes : List Byte) (qty : Nat) (s : State),
    (qty ≤ 8 * bytes.length → ∃ out : List Bool,
      exec (.unpkb bytes qty) s = .next (answered s (.ok (.bools out))) ∧
      out.length = qty ∧
      ∀ i byte, i < qty → bytes[i / 8]? = some byte → out[i]? = some (byte.getLsbD (i % 8))) ∧
    (8 * bytes.length < qty → exec (.unpkb bytes qty) s = .refused .unpackTooFewBits)

/-- R94: the five laws of the converters. -/
def Obligations.ConverterLaws : Prop :=
  (∀ w, bytesToWords (wordsToBytes w) = w) ∧
  (∀ b, (wordsToBytes (bytesToWords b) = b ↔ b.length % 2 = 0) ∧
    (∀ front last, b = front ++ [last] → b.length % 2 = 1 →
      wordsToBytes (bytesToWords b) = front ++ [0, last])) ∧
  (∀ x, unpackBits (packBits x) x.length = x) ∧
  (∀ b q, q ≤ 8 * b.length →
    (packBits (unpackBits b q) = b ↔
      b.length = (q + 7) / 8 ∧
      (q % 8 ≠ 0 → ∀ last j, b.getLast? = some last → q % 8 ≤ j → last.getLsbD j = false))) ∧
  (∀ w, (wordsToBytes w).length = 2 * w.length) ∧
  (∀ b, (bytesToWords b).length = (b.length + 1) / 2) ∧
  (∀ x, (packBits x).length = (x.length + 7) / 8) ∧
  (∀ b q, (unpackBits b q).length = q)

/-! ## Layer L1 -/

/-- R111: PDUENC tests the function code first, then the payload's length, else prepends the function. -/
def Obligations.PduEncodeChecksInOrder : Prop :=
  ∀ (f : Byte) (payload : List Byte) (s : State),
    (f = 0 → exec (.pduenc ⟨f, payload⟩) s = .next (answered s (.err .invalidFunctionCode))) ∧
    (f ≠ 0 → 252 < payload.length →
      exec (.pduenc ⟨f, payload⟩) s = .next (answered s (.err .payloadTooLarge))) ∧
    (f ≠ 0 → payload.length ≤ 252 →
      exec (.pduenc ⟨f, payload⟩) s = .next (answered s (.ok (.bytes (f :: payload)))))

/-- R112, R114: PDUDEC fails on the empty input only; any function byte, 0 too, and any length pass. -/
def Obligations.PduDecodeFailsOnEmptyOnly : Prop :=
  ∀ s : State,
    exec (.pdudec []) s = .next (answered s (.err .truncatedPdu)) ∧
    ∀ f payload, exec (.pdudec (f :: payload)) s = .next (answered s (.ok (.pdu ⟨f, payload⟩)))

/-- R113: PDUDEC inverts PDUENC, and PDUENC inverts PDUDEC exactly on 1 to 253 bytes whose first is not 0. -/
def Obligations.PduRoundTrips : Prop :=
  ∀ s : State,
    (∀ f payload, f ≠ 0 → payload.length ≤ 252 → ∃ bytes,
      exec (.pduenc ⟨f, payload⟩) s = .next (answered s (.ok (.bytes bytes))) ∧
      exec (.pdudec bytes) s = .next (answered s (.ok (.pdu ⟨f, payload⟩)))) ∧
    (∀ b, (∃ pdu, exec (.pdudec b) s = .next (answered s (.ok (.pdu pdu))) ∧
        exec (.pduenc pdu) s = .next (answered s (.ok (.bytes b)))) ↔
      1 ≤ b.length ∧ b.length ≤ 253 ∧ b[0]? ≠ some 0)

/-- R120: HDRENC completes with the four fields as given, big-endian, in seven bytes. -/
def Obligations.HeaderEncodeLayout : Prop :=
  ∀ (t p l : Word) (u : Byte) (s : State),
    exec (.hdrenc ⟨t, p, l, u⟩) s = .next (answered s (.ok (.bytes
      [BitVec.ofNat 8 (t.toNat / 256), BitVec.ofNat 8 (t.toNat % 256),
       BitVec.ofNat 8 (p.toNat / 256), BitVec.ofNat 8 (p.toNat % 256),
       BitVec.ofNat 8 (l.toNat / 256), BitVec.ofNat 8 (l.toNat % 256), u])))

/-- R121: HDRDEC fails below seven bytes, else decodes the first seven and looks at no other. -/
def Obligations.HeaderDecodeFirstSeven : Prop :=
  ∀ s : State,
    (∀ bytes, bytes.length < 7 → exec (.hdrdec bytes) s = .next (answered s (.err .truncatedHeader))) ∧
    ∀ b0 b1 b2 b3 b4 b5 b6 rest,
      exec (.hdrdec (b0 :: b1 :: b2 :: b3 :: b4 :: b5 :: b6 :: rest)) s = .next (answered s (.ok (.header
        { transactionId := BitVec.ofNat 16 (256 * b0.toNat + b1.toNat)
          protocolId := BitVec.ofNat 16 (256 * b2.toNat + b3.toNat)
          length := BitVec.ofNat 16 (256 * b4.toNat + b5.toNat)
          unitId := b6 })))

/-- R122: ENVENC is the header as given, then the encoded PDU; only PDUENC's two errors occur. -/
def Obligations.EnvelopeEncodeLayout : Prop :=
  ∀ (t p l : Word) (u f : Byte) (payload : List Byte) (s : State),
    (f = 0 → exec (.envenc ⟨t, p, l, u⟩ ⟨f, payload⟩) s = .next (answered s (.err .invalidFunctionCode))) ∧
    (f ≠ 0 → 252 < payload.length →
      exec (.envenc ⟨t, p, l, u⟩ ⟨f, payload⟩) s = .next (answered s (.err .payloadTooLarge))) ∧
    (f ≠ 0 → payload.length ≤ 252 →
      exec (.envenc ⟨t, p, l, u⟩ ⟨f, payload⟩) s = .next (answered s (.ok (.bytes
        (be16 t ++ be16 p ++ be16 l ++ [u] ++ f :: payload)))))

/-- R123: ENVDEC fails below eight bytes with TruncatedEnvelope, never otherwise; the PDU is all of the
bytes from offset 7 on, whatever the length field says. -/
def Obligations.EnvelopeDecodeTakesAllTheRest : Prop :=
  ∀ s : State,
    (∀ bytes, bytes.length < 8 → exec (.envdec bytes) s = .next (answered s (.err .truncatedEnvelope))) ∧
    ∀ b0 b1 b2 b3 b4 b5 b6 f payload,
      exec (.envdec (b0 :: b1 :: b2 :: b3 :: b4 :: b5 :: b6 :: f :: payload)) s =
        .next (answered s (.ok (.envelope
          { transactionId := BitVec.ofNat 16 (256 * b0.toNat + b1.toNat)
            protocolId := BitVec.ofNat 16 (256 * b2.toNat + b3.toNat)
            length := BitVec.ofNat 16 (256 * b4.toNat + b5.toNat)
            unitId := b6 }
          ⟨f, payload⟩)))

/-- R124, R125: the header and envelope codecs invert each other. -/
def Obligations.HeaderAndEnvelopeRoundTrips : Prop :=
  ∀ s : State,
    (∀ h, ∃ bytes, exec (.hdrenc h) s = .next (answered s (.ok (.bytes bytes))) ∧
      exec (.hdrdec bytes) s = .next (answered s (.ok (.header h)))) ∧
    (∀ b, 7 ≤ b.length → ∃ h, exec (.hdrdec b) s = .next (answered s (.ok (.header h))) ∧
      exec (.hdrenc h) s = .next (answered s (.ok (.bytes (b.take 7))))) ∧
    (∀ h f payload, f ≠ 0 → payload.length ≤ 252 → ∃ bytes,
      exec (.envenc h ⟨f, payload⟩) s = .next (answered s (.ok (.bytes bytes))) ∧
      exec (.envdec bytes) s = .next (answered s (.ok (.envelope h ⟨f, payload⟩))))

/-- R24, R10, R18: the eleven stages end in a next state that differs from the old one by the one result
handed to the host, or (UNPKB only) in its refusal. -/
def Obligations.StagesTouchNoState : Prop :=
  ∀ (i : Instr) (s : State), isStage i = true →
    (∃ r, exec i s = .next (answered s r)) ∨
    (∃ bytes qty, i = .unpkb bytes qty ∧ 8 * bytes.length < qty ∧ exec i s = .refused .unpackTooFewBits)

/-! ## Layer L2 -/

/-- R135: CONNECT by S.LINK and the link's answer. With no answer it waits (the model's form of an answer
still to come, log entry 4). -/
def Obligations.ConnectOutcomes : Prop :=
  ∀ (s : State) (rest : List ConnectAnswer),
    (s.link = .connected → exec .connect s = .refused .connectWhileConnected) ∧
    (s.link = .disconnected → s.connectIn = .opened :: rest →
      exec .connect s = .next (answered
        { s with link := .connected, connectIn := rest, rxQueue := [],
                 trace := s.trace ++ [.connect .opened] } (.ok .nothing))) ∧
    (s.link = .disconnected → s.connectIn = .failed :: rest →
      exec .connect s = .next (answered
        { s with connectIn := rest, trace := s.trace ++ [.connect .failed] } (.err .connectionError))) ∧
    (s.link = .disconnected → s.connectIn = [] →
      exec .connect s = .next { s with inFlight := some .connect })

/-- R137: CLOSE closes an open connection and discards the receive queue; on a disconnected session it fails
without calling the link. -/
def Obligations.CloseOutcomes : Prop :=
  ∀ s : State,
    (s.link = .disconnected → exec .close s = .next (answered s (.err .notConnected))) ∧
    (s.link = .connected →
      exec .close s = .next (answered
        { s with link := .disconnected, rxQueue := [], trace := s.trace ++ [.close] } (.ok .nothing)))

/-- R146: a PDU that PDUENC rejects ends SEND, and any operation, with no link call and nothing changed but
the result. -/
def Obligations.EncodeErrorsBeforeAnyIO : Prop :=
  ∀ (i : Instr) (pdu : Pdu) (s : State), requestPdu i = some pdu →
    (pdu.function = 0 → exec i s = .next (answered s (.err .invalidFunctionCode))) ∧
    (pdu.function ≠ 0 → 252 < pdu.payload.length →
      exec i s = .next (answered s (.err .payloadTooLarge)))

/-- R58: the four operations with an array operand fail with PayloadTooLarge exactly over their limits, and
every request that passes has a byte count of at most 247. -/
def Obligations.ArrayLimits : Prop :=
  ∀ (s : State) (a b c : Word) (words : List Word) (bits : List Bool),
    (exec (.wrmreg a words) s = .next (answered s (.err .payloadTooLarge)) ↔ 123 < words.length) ∧
    (exec (.wrmcoil a bits) s = .next (answered s (.err .payloadTooLarge)) ↔ 1976 < bits.length) ∧
    (exec (.diag a words) s = .next (answered s (.err .payloadTooLarge)) ↔ 125 < words.length) ∧
    (exec (.rwmreg a b c words) s = .next (answered s (.err .payloadTooLarge)) ↔ 121 < words.length) ∧
    (words.length ≤ 123 → (wordsToBytes words).length ≤ 247) ∧
    (bits.length ≤ 1976 → (packBits bits).length ≤ 247)

/-- R140 step 2, R141: when the implicit connect fails, SEND and every operation end with ConnectionError and
the counter is not advanced. -/
def Obligations.ImplicitConnectFailure : Prop :=
  ∀ (i : Instr) (pdu : Pdu) (s : State) (rest : List ConnectAnswer), requestPdu i = some pdu →
    pdu.function ≠ 0 → pdu.payload.length ≤ 252 →
    s.link = .disconnected → s.connectIn = .failed :: rest →
    exec i s = .next (answered
      { s with connectIn := rest, trace := s.trace ++ [.connect .failed] } (.err .connectionError))

/-- R143: a failed write ends SEND and every operation with WriteError; the read is not attempted, the counter
stays advanced, S.LINK takes the link's report, and a lost link has no queue. -/
def Obligations.WriteFailureOutcome : Prop :=
  ∀ (i : Instr) (pdu : Pdu) (s t : State) (o : Bool) (n : Nat) (rest : List WriteAnswer),
    requestPdu i = some pdu → pdu.function ≠ 0 → pdu.payload.length ≤ 252 →
    LinkReady s t → s.writeIn = .failed o n :: rest →
    exec i s = .next (answered
      { t with
        txn := s.txn + 1, link := reported o, writeIn := rest,
        rxQueue := if o then t.rxQueue else [],
        trace := t.trace ++
          [.write (requestEnvelope (s.txn + 1) s.unit (pdu.function :: pdu.payload)) (.failed o n)] }
      (.err .writeError))

/-- R144, R140 step 7: a failed read, or a read of no byte, ends SEND and every operation with ReadError; the
counter stays advanced and S.LINK takes the link's report. -/
def Obligations.ReadFailureOutcome : Prop :=
  ∀ (i : Instr) (pdu : Pdu) (s s0 s1 : State) (arrived : List Byte) (o : Bool) (n : Nat)
    (rest : List ReadDraw),
    requestPdu i = some pdu → pdu.function ≠ 0 → pdu.payload.length ≤ 252 →
    LinkReady s s0 → Wrote s0 (pdu.function :: pdu.payload) s1 →
    (s1.readIn = .fails arrived o :: rest →
      exec i s = .next (answered
        { s1 with
          link := reported o, readIn := rest,
          rxQueue := if o then s1.rxQueue ++ arrived else [],
          trace := s1.trace ++ [.read (.failed o)] } (.err .readError))) ∧
    (s1.readIn = .returns arrived n o :: rest → (n = 0 ∨ s1.rxQueue ++ arrived = []) →
      exec i s = .next (answered
        { s1 with
          link := reported o, readIn := rest,
          rxQueue := if o then s1.rxQueue ++ arrived else [],
          trace := s1.trace ++ [.read (.empty o)] } (.err .readError)))

/-- R140 step 8: a read of fewer than eight bytes ends SEND and every operation with TruncatedEnvelope, the
link still connected and the counter advanced. -/
def Obligations.ShortReadIsTruncatedEnvelope : Prop :=
  ∀ (i : Instr) (pdu : Pdu) (s t : State) (b : List Byte),
    requestPdu i = some pdu → pdu.function ≠ 0 → pdu.payload.length ≤ 252 →
    Exchanged s (pdu.function :: pdu.payload) b t → b.length < 8 →
    exec i s = .next (answered t (.err .truncatedEnvelope))

/-- R145: a response with another transaction id is rejected, whatever else it holds, and also when it is an
exception. -/
def Obligations.OtherIdIsTransactionMismatch : Prop :=
  ∀ (i : Instr) (pdu : Pdu) (s t : State) (t1 t0 x1 x0 l1 l0 u f : Byte) (payload : List Byte),
    requestPdu i = some pdu → pdu.function ≠ 0 → pdu.payload.length ≤ 252 →
    Exchanged s (pdu.function :: pdu.payload) (t1 :: t0 :: x1 :: x0 :: l1 :: l0 :: u :: f :: payload) t →
    256 * t1.toNat + t0.toNat ≠ (s.txn + 1).toNat →
    exec i s = .next (answered t (.err .transactionMismatch))

/-- R140 step 10, R147: SEND returns the response PDU as it is, any function byte, whatever the response's
protocol id, length and unit id are. -/
def Obligations.SendReturnsTheResponsePdu : Prop :=
  ∀ (s t : State) (fn f : Byte) (request payload : List Byte),
    fn ≠ 0 → request.length ≤ 252 → Replied s (fn :: request) f payload t →
    exec (.send ⟨fn, request⟩) s = .next (answered t (.ok (.pdu ⟨f, payload⟩)))

/-- R148: the table of outcomes, for SEND and for every operation: which link calls were made, S.LINK and
S.TXN after. -/
def Obligations.OutcomeTable : Prop :=
  ∀ (i : Instr) (pdu : Pdu) (s t : State), requestPdu i = some pdu →
    exec i s = .next t → t.inFlight = none →
    ∃ r evs, t.results = s.results ++ [r] ∧ t.trace = s.trace ++ evs ∧
      match r with
      | .err .invalidFunctionCode => evs = [] ∧ t.link = s.link ∧ t.txn = s.txn
      | .err .payloadTooLarge => evs = [] ∧ t.link = s.link ∧ t.txn = s.txn
      | .err .connectionError =>
        s.link = .disconnected ∧ evs = [.connect .failed] ∧ t.link = .disconnected ∧ t.txn = s.txn
      | .err .writeError => ∃ e o n,
        evs = openingEvents s.link ++ [.write e (.failed o n)] ∧ t.link = reported o ∧ t.txn = s.txn + 1
      | .err .readError => ∃ e a o, (a = .empty o ∨ a = .failed o) ∧
        evs = openingEvents s.link ++ [.write e .written, .read a] ∧ t.link = reported o ∧
        t.txn = s.txn + 1
      | .err .truncatedPdu => False
      | .err .truncatedHeader => False
      | .err .notConnected => False
      | _ => ∃ e b,
        evs = openingEvents s.link ++ [.write e .written, .read (.data b)] ∧ t.link = .connected ∧
        t.txn = s.txn + 1

/-- R216: what the peer has received when SEND or an operation ends: nothing after the first three errors, a
prefix of the request envelope after WriteError, the whole envelope after everything else. -/
def Obligations.WhatThePeerHasReceived : Prop :=
  ∀ (i : Instr) (pdu : Pdu) (s t : State), requestPdu i = some pdu →
    exec i s = .next t → t.inFlight = none →
    ∃ r evs, t.results = s.results ++ [r] ∧ t.trace = s.trace ++ evs ∧
      match r with
      | .err .invalidFunctionCode => peerReceives evs = []
      | .err .payloadTooLarge => peerReceives evs = []
      | .err .connectionError => peerReceives evs = []
      | .err .writeError =>
        peerReceives evs <+: requestEnvelope (s.txn + 1) s.unit (pdu.function :: pdu.payload)
      | _ => peerReceives evs = requestEnvelope (s.txn + 1) s.unit (pdu.function :: pdu.payload)

/-- R149, R247: where the link has not answered, SEND and every operation wait: at LinkConnect with nothing
changed, at LinkWrite with the session open, the counter advanced and the envelope ready, at LinkRead with the
envelope written. Without the answer the waiting command steps to itself for ever. The spec names the hang at the
read; that the link may leave its LinkConnect and LinkWrite unanswered too is the model's choice (log entry 4). -/
def Obligations.UnansweredReadHangs : Prop :=
  ∀ (i : Instr) (pdu : Pdu) (s s0 s1 : State), requestPdu i = some pdu →
    pdu.function ≠ 0 → pdu.payload.length ≤ 252 →
    (s.link = .disconnected → s.connectIn = [] →
      ∃ finish,
        exec i s = .next { s with inFlight := some (.opening finish (pdu.function :: pdu.payload)) } ∧
        (s.port = none →
          step { s with inFlight := some (.opening finish (pdu.function :: pdu.payload)) } =
            .next { s with inFlight := some (.opening finish (pdu.function :: pdu.payload)) })) ∧
    (LinkReady s s0 → s0.writeIn = [] →
      ∃ finish t,
        t = { s0 with
          txn := s.txn + 1
          inFlight := some (.writing finish (s.txn + 1)
            (requestEnvelope (s.txn + 1) s.unit (pdu.function :: pdu.payload))) } ∧
        exec i s = .next t ∧ (s.port = none → step t = .next t)) ∧
    (LinkReady s s0 → Wrote s0 (pdu.function :: pdu.payload) s1 → s1.readIn = [] →
      ∃ finish, exec i s = .next { s1 with inFlight := some (.reading finish s1.txn) } ∧
        (s.port = none →
          step { s1 with inFlight := some (.reading finish s1.txn) } =
            .next { s1 with inFlight := some (.reading finish s1.txn) }))

/-- R149: a command that waited for the link and then gets its answer ends as it would have ended with the
answer there at once. -/
def Obligations.WaitingIsTransparent : Prop :=
  ∀ (i : Instr) (s t : State), s.port = none → t.inFlight ≠ none →
    (exec i { s with connectIn := [] } = .next t → step { t with connectIn := s.connectIn } = exec i s) ∧
    (exec i { s with writeIn := [] } = .next t → step { t with writeIn := s.writeIn } = exec i s) ∧
    (exec i { s with readIn := [] } = .next t → step { t with readIn := s.readIn } = exec i s)

/-- R39, R40: one read of at most `max` bytes removes exactly the bytes it returns, in arrival order, at least
one; otherwise it returns none, and a lost link discards what was queued. -/
def Obligations.ReadRemovesWhatItReturns : Prop :=
  ∀ (max : Nat) (s t : State) (a : ReadAnswer), linkRead max s = some (a, t) →
    ∃ d rest, s.readIn = d :: rest ∧
      t = { s with readIn := rest, rxQueue := t.rxQueue, trace := s.trace ++ [.read a] } ∧
      match a with
      | .data b => s.rxQueue ++ arrivals d = b ++ t.rxQueue ∧ 1 ≤ b.length ∧ b.length ≤ max
      | .empty o => t.rxQueue = if o then s.rxQueue ++ arrivals d else []
      | .failed o => t.rxQueue = if o then s.rxQueue ++ arrivals d else []

/-! ## Layer L3 -/

/-- R160, R161: every operation is SEND of its request PDU, whose errors it returns unchanged; then the
exception check, before any decode; then the decode of its response format. -/
def Obligations.OperationIsSendThenDecode : Prop :=
  ∀ (i : Instr) (pdu : Pdu) (format : RespFormat) (s t : State),
    requestPdu i = some pdu → responseFormat i = some format →
    exec (.send pdu) s = .next t → t.inFlight = none →
    (∃ k, t.results = s.results ++ [.err k] ∧ exec i s = .next t) ∨
    (∃ rsp, t.results = s.results ++ [.ok (.pdu rsp)] ∧
      exec i s =
        if rsp.function.toNat = pdu.function.toNat + 0x80 then
          match rsp.payload with
          | [] => .refused .exceptionWithoutCode
          | e :: _ =>
            .next { t with results := s.results ++ [.err (.protocolException rsp.function e)] }
        else
          match decodeResponse format rsp.payload with
          | none => .refused .responseTooShort
          | some r => .next { t with results := s.results ++ [r] })

/-- R161, R162: a response whose function byte is the request's plus 0x80 ends any of the 15 operations with
that byte and the exception code; nothing of it is decoded, bytes after the first are not looked at, and an
empty payload is refused. -/
def Obligations.ExceptionResponseIsProtocolException : Prop :=
  ∀ (i : Instr) (pdu : Pdu) (format : RespFormat) (s t : State) (f : Byte) (payload : List Byte),
    requestPdu i = some pdu → responseFormat i = some format → pdu.payload.length ≤ 252 →
    Replied s (pdu.function :: pdu.payload) f payload t → f.toNat = pdu.function.toNat + 0x80 →
    (payload = [] → exec i s = .refused .exceptionWithoutCode) ∧
    (∀ e rest, payload = e :: rest →
      exec i s = .next (answered t (.err (.protocolException f e))))

/-- R163, R164: RDCOIL and RDDI send address and quantity and answer the first `qty` bits after the skipped
byte count; with fewer bits they are refused. -/
def Obligations.ReadBitArrays : Prop :=
  ∀ (s t : State) (addr qty : Word) (f : Byte) (payload : List Byte),
    (Replied s (0x01 :: (be16 addr ++ be16 qty)) f payload t → f ≠ 0x81 →
      (∀ c data, payload = c :: data → qty.toNat ≤ 8 * data.length →
        exec (.rdcoil addr qty) s = .next (answered t (.ok (.bools (bitsOf data qty.toNat))))) ∧
      ((payload = [] ∨ 8 * (payload.length - 1) < qty.toNat) →
        exec (.rdcoil addr qty) s = .refused .responseTooShort)) ∧
    (Replied s (0x02 :: (be16 addr ++ be16 qty)) f payload t → f ≠ 0x82 →
      (∀ c data, payload = c :: data → qty.toNat ≤ 8 * data.length →
        exec (.rddi addr qty) s = .next (answered t (.ok (.bools (bitsOf data qty.toNat))))) ∧
      ((payload = [] ∨ 8 * (payload.length - 1) < qty.toNat) →
        exec (.rddi addr qty) s = .refused .responseTooShort))

/-- R165, R166: RDHR and RDIR send address and quantity and answer all the words after the skipped byte count,
neither cut nor padded to `qty`. -/
def Obligations.ReadWordArrays : Prop :=
  ∀ (s t : State) (addr qty : Word) (f : Byte) (payload : List Byte),
    (Replied s (0x03 :: (be16 addr ++ be16 qty)) f payload t → f ≠ 0x83 →
      (∀ c data, payload = c :: data →
        exec (.rdhr addr qty) s = .next (answered t (.ok (.words (bytesToWords data))))) ∧
      (payload = [] → exec (.rdhr addr qty) s = .refused .responseTooShort)) ∧
    (Replied s (0x04 :: (be16 addr ++ be16 qty)) f payload t → f ≠ 0x84 →
      (∀ c data, payload = c :: data →
        exec (.rdir addr qty) s = .next (answered t (.ok (.words (bytesToWords data))))) ∧
      (payload = [] → exec (.rdir addr qty) s = .refused .responseTooShort))

/-- R167, R168, R170, R172: WRCOIL, WRREG, WRMREG and MASKWR send their fields and complete on any response
that is no exception, its payload not looked at. -/
def Obligations.WritesIgnoreTheResponse : Prop :=
  ∀ (s t : State) (addr v m : Word) (val : Bool) (vals : List Word) (f : Byte) (payload : List Byte),
    (Replied s (0x05 :: (be16 addr ++ if val then [0xFF, 0x00] else [0x00, 0x00])) f payload t → f ≠ 0x85 →
      exec (.wrcoil addr val) s = .next (answered t (.ok .nothing))) ∧
    (Replied s (0x06 :: (be16 addr ++ be16 v)) f payload t → f ≠ 0x86 →
      exec (.wrreg addr v) s = .next (answered t (.ok .nothing))) ∧
    (vals.length ≤ 123 →
      Replied s (0x10 :: (be16 addr ++ be16 (BitVec.ofNat 16 vals.length) ++
        [BitVec.ofNat 8 (2 * vals.length)] ++ wordsToBytes vals)) f payload t → f ≠ 0x90 →
      exec (.wrmreg addr vals) s = .next (answered t (.ok .nothing))) ∧
    (Replied s (0x16 :: (be16 addr ++ be16 v ++ be16 m)) f payload t → f ≠ 0x96 →
      exec (.maskwr addr v m) s = .next (answered t (.ok .nothing)))

/-- R169: WRMCOIL sends address, count, byte count and packed bits, and compares the echoed count with the
count sent. That the count stands in payload bytes 2 and 3 is PRESUMED (the spec's general-knowledge passage
G1, log entry 17). -/
def Obligations.WriteCoilsChecksTheEchoedCount : Prop :=
  ∀ (s t : State) (addr : Word) (vals : List Bool) (f : Byte) (payload : List Byte),
    vals.length ≤ 1976 →
    Replied s (0x0F :: (be16 addr ++ be16 (BitVec.ofNat 16 vals.length) ++
      [BitVec.ofNat 8 ((vals.length + 7) / 8)] ++ packBits vals)) f payload t → f ≠ 0x8F →
    (payload.length < 4 → exec (.wrmcoil addr vals) s = .refused .responseTooShort) ∧
    (∀ a1 a0 h l rest, payload = a1 :: a0 :: h :: l :: rest →
      (256 * h.toNat + l.toNat = vals.length →
        exec (.wrmcoil addr vals) s = .next (answered t (.ok .nothing))) ∧
      (256 * h.toNat + l.toNat ≠ vals.length →
        exec (.wrmcoil addr vals) s = .next (answered t (.err .unexpectedCoilCount))))

/-- R171: RWMREG sends its fields and answers the words after the byte count, or the empty array when the byte
count is 0. -/
def Obligations.ReadWriteRegisters : Prop :=
  ∀ (s t : State) (raddr rqty waddr : Word) (vals : List Word) (f : Byte) (payload : List Byte),
    vals.length ≤ 121 →
    Replied s (0x17 :: (be16 raddr ++ be16 rqty ++ be16 waddr ++ be16 (BitVec.ofNat 16 vals.length) ++
      [BitVec.ofNat 8 (2 * vals.length)] ++ wordsToBytes vals)) f payload t → f ≠ 0x97 →
    (payload = [] → exec (.rwmreg raddr rqty waddr vals) s = .refused .responseTooShort) ∧
    (∀ c data, payload = c :: data →
      exec (.rwmreg raddr rqty waddr vals) s =
        .next (answered t (.ok (.words (if c = 0 then [] else bytesToWords data)))))

/-- R173, R175: RDFIFO skips four response bytes and DIAG two; both answer all the words that follow. -/
def Obligations.FifoAndDiagnostics : Prop :=
  ∀ (s t : State) (addr : Word) (data : List Word) (f : Byte) (payload : List Byte),
    (Replied s (0x18 :: be16 addr) f payload t → f ≠ 0x98 →
      (payload.length < 4 → exec (.rdfifo addr) s = .refused .responseTooShort) ∧
      (4 ≤ payload.length →
        exec (.rdfifo addr) s = .next (answered t (.ok (.words (bytesToWords (payload.drop 4))))))) ∧
    (data.length ≤ 125 → Replied s (0x08 :: (be16 addr ++ wordsToBytes data)) f payload t → f ≠ 0x88 →
      (payload.length < 2 → exec (.diag addr data) s = .refused .responseTooShort) ∧
      (2 ≤ payload.length →
        exec (.diag addr data) s = .next (answered t (.ok (.words (bytesToWords (payload.drop 2)))))))

/-- R174, R176, R177: RDEXST answers the eight bits of the first response byte, GCEC the status and count
words (from three bytes on, by the odd-tail rule), RPTID the payload as it is. -/
def Obligations.StatusReads : Prop :=
  ∀ (s t : State) (f : Byte) (payload : List Byte),
    (Replied s [0x07] f payload t → f ≠ 0x87 →
      (payload = [] → exec .rdexst s = .refused .responseTooShort) ∧
      (∀ b rest, payload = b :: rest →
        exec .rdexst s = .next (answered t (.ok (.bools
          [b.getLsbD 0, b.getLsbD 1, b.getLsbD 2, b.getLsbD 3,
           b.getLsbD 4, b.getLsbD 5, b.getLsbD 6, b.getLsbD 7]))))) ∧
    (Replied s [0x0B] f payload t → f ≠ 0x8B →
      (payload.length < 3 → exec .gcec s = .refused .responseTooShort) ∧
      (∀ s1 s0 c, payload = [s1, s0, c] →
        exec .gcec s = .next (answered t (.ok (.commEvents
          (decide (0 < 256 * s1.toNat + s0.toNat)) (c.setWidth 16))))) ∧
      (∀ s1 s0 c1 c0 rest, payload = s1 :: s0 :: c1 :: c0 :: rest →
        exec .gcec s = .next (answered t (.ok (.commEvents
          (decide (0 < 256 * s1.toNat + s0.toNat)) (BitVec.ofNat 16 (256 * c1.toNat + c0.toNat))))))) ∧
    (Replied s [0x11] f payload t → f ≠ 0x91 →
      exec .rptid s = .next (answered t (.ok (.bytes payload))))

/-- R200: EXCLBL completes with the category of the code, the nine listed codes and UNKNOWN EXCEPTION for every
other, and the category's label is the source's. -/
def Obligations.ExceptionCategoryTable : Prop :=
  ∀ (code : Byte) (s : State), ∃ c,
    exec (.exclbl code) s = .next (answered s (.ok (.category c))) ∧
    (code = 1 → c = .illegalFunction ∧ c.label = "ILLEGAL FUNCTION") ∧
    (code = 2 → c = .illegalDataAddress ∧ c.label = "ILLEGAL DATA ADDRESS") ∧
    (code = 3 → c = .illegalDataValue ∧ c.label = "ILLEGAL DATA VALUE") ∧
    (code = 4 → c = .serverDeviceFailure ∧ c.label = "SERVER DEVICE FAILURE") ∧
    (code = 5 → c = .acknowledge ∧ c.label = "ACKNOWLEDGE") ∧
    (code = 6 → c = .serverDeviceBusy ∧ c.label = "SERVER DEVICE BUSY") ∧
    (code = 8 → c = .memoryParityError ∧ c.label = "MEMORY PARITY ERROR") ∧
    (code = 10 → c = .gatewayPathUnavailable ∧ c.label = "GATEWAY PATH UNAVAILABLE") ∧
    (code = 11 → c = .gatewayTargetDeviceFailedToRespond ∧
      c.label = "GATEWAY TARGET DEVICE FAILED TO RESPOND") ∧
    (code.toNat ∉ [1, 2, 3, 4, 5, 6, 8, 10, 11] → c = .unknownException ∧ c.label = "UNKNOWN EXCEPTION")

/-- R201: the category EXCLBL gives has the code's own number for the nine listed codes and 0 for every other.
The numbers are the spec's (decision D13, log entry 30). -/
def Obligations.CategoryNumbers : Prop :=
  ∀ (code : Byte) (s : State), ∃ c,
    exec (.exclbl code) s = .next (answered s (.ok (.category c))) ∧
    c.number = if code.toNat ∈ [1, 2, 3, 4, 5, 6, 8, 10, 11] then code.toNat else 0

/-- R211: the class of every error kind. -/
def Obligations.ErrorClasses : Prop :=
  ∀ k : ErrKind,
    (k.errClass = .transport ↔
      k = .connectionError ∨ k = .writeError ∨ k = .readError ∨ k = .notConnected) ∧
    (k.errClass = .framing ↔
      k = .truncatedHeader ∨ k = .truncatedEnvelope ∨ k = .truncatedPdu ∨ k = .transactionMismatch) ∧
    (k.errClass = .encoding ↔ k = .invalidFunctionCode ∨ k = .payloadTooLarge) ∧
    (k.errClass = .protocolException ↔ ∃ code exception, k = .protocolException code exception) ∧
    (k.errClass = .applicationConsistency ↔ k = .unexpectedCoilCount)

/-- R210: `Ok` has status number 0, the twelve kinds have 1 to 12, and the number tells the kind. -/
def Obligations.StatusNumbersTellTheKind : Prop :=
  (∀ v, Result.status (.ok v) = 0) ∧
  (∀ k, 1 ≤ Result.status (.err k) ∧ Result.status (.err k) ≤ 12) ∧
  (∀ k k', Result.status (.err k) = Result.status (.err k') →
    k = k' ∨ ∃ c e c' e', k = .protocolException c e ∧ k' = .protocolException c' e') ∧
  [ErrKind.invalidFunctionCode, .payloadTooLarge, .truncatedPdu, .truncatedHeader, .truncatedEnvelope,
    .connectionError, .notConnected, .writeError, .readError, .transactionMismatch,
    .unexpectedCoilCount].map ErrKind.number = [1, 2, 3, 4, 5, 6, 7, 8, 9, 10, 11]

/-! ## The whole machine -/

/-- R21, R240: the state right after reset, and the hard-wired protocol id. The counter's value 0 is a choice, the
source gives none (log entry 2, decision D3), and so is that the unit id is one constant of the machine, of open
value (log entry 3, decision D4). -/
def Obligations.ResetState : Prop :=
  State.reset.link = .disconnected ∧ State.reset.txn = 0 ∧ State.reset.unit = Config.unitId ∧
  State.reset.proto = 0 ∧ State.reset.inFlight = none

/-- R240, R241: a reset with no command in flight gives MBF's reset state and drops the stream without a link
event; with a command in flight it is refused. What is a choice: the counter's value 0 (log entry 2, decision
D3), the constant unit id (log entry 3), the emptied receive queue (log entry 7), and that what the host and the
link still have to say is kept (log entry 16). -/
def Obligations.ResetStep : Prop :=
  ∀ s : State, s.port = some .reset →
    (s.inFlight ≠ none → step s = .refused .resetWhileInFlight) ∧
    (s.inFlight = none →
      step s = .next
        { s with link := .disconnected, txn := 0, unit := Config.unitId, port := none, rxQueue := [] })

/-- R12, R141: the counter changes only by 1 modulo 65536 and by a reset. It is incremented only by a command that
exchanges a PDU, that is SEND and the operations: in the step that starts it, or in the step that resumes it at
its LinkConnect. No other step changes it: no hand-over, no CONNECT or CLOSE, no command resumed at its write or
read. From 65535 it goes to 0. The value 0 after a reset is a choice (log entry 2, decision D3). -/
def Obligations.CounterOnlyIncrements : Prop :=
  (∀ (i : Instr) (s t : State), exec i s = .next t →
    t.txn = s.txn ∨ (t.txn = s.txn + 1 ∧ requestPdu i ≠ none)) ∧
  (∀ s t : State, s.port ≠ some .reset → step s = .next t →
    t.txn = s.txn ∨
    (t.txn = s.txn + 1 ∧
      ((s.inFlight = none ∧ ∃ m i, s.port = some (.command m) ∧ decode m = .ok i ∧ requestPdu i ≠ none) ∨
       (s.port = none ∧ ∃ finish p, s.inFlight = some (.opening finish p))))) ∧
  (∀ s t : State, s.port = some .reset → step s = .next t → t.txn = 0) ∧
  ((65535 : Word) + 1 = 0)

/-- R13, R14: no command writes the unit id, and S.PROTO reads 0 in every state. -/
def Obligations.UnitAndProtocolIdConstant : Prop :=
  (∀ s t : State, s.port ≠ some .reset → step s = .next t → t.unit = s.unit) ∧
  (∀ s : State, s.proto = 0)

/-- R20: in every step but a reset S.LINK changes only by the link events the step adds. -/
def Obligations.LinkFollowsItsEvents : Prop :=
  ∀ s t : State, s.port ≠ some .reset → step s = .next t →
    ∃ evs, t.trace = s.trace ++ evs ∧ t.link = evs.foldl linkAfter s.link

/-- R43: the link calls of one step come in the order connect, write, read, each at most once. The read is not
started before the write has answered `Written`: it follows that write in the same step, or the step resumes a
command that waits at its read, and such a command makes no other call again. In a state that meets the
invariant LinkConnect is called only when the session is disconnected, and LinkWrite, LinkRead and LinkClose only
when it is connected or was opened in this step. -/
def Obligations.LinkCallsInOrder : Prop :=
  ∀ s t : State, step s = .next t → ∃ evs, t.trace = s.trace ++ evs ∧ InCallOrder s.inFlight evs ∧
    (Inv s →
      (∀ a, LinkEvent.connect a ∈ evs → s.link = .disconnected) ∧
      (∀ e ∈ evs, (∀ a, e ≠ .connect a) → s.link = .connected ∨ LinkEvent.connect .opened ∈ evs))

/-- R18: no step reads the results or the trace: without them it does the same, and adds the same. -/
def Obligations.ObservationsAreNeverRead : Prop :=
  ∀ s : State,
    (∀ t, step { s with results := [], trace := [] } = .next t →
      step s = .next { t with results := s.results ++ t.results, trace := s.trace ++ t.trace }) ∧
    (∀ r, step { s with results := [], trace := [] } = .refused r → step s = .refused r)

/-- R22, U3: a command presented while another is in flight is refused. -/
def Obligations.SecondCommandRefused : Prop :=
  ∀ (s : State) (m : List Byte), s.port = some (.command m) → s.inFlight ≠ none →
    step s = .refused .commandWhileInFlight

/-- R64, U8: a command code that R63 does not assign is refused. -/
def Obligations.ReservedCodesRefused : Prop :=
  ∀ (s : State) (code : Byte) (operands : List Byte),
    s.port = some (.command (code :: operands)) → s.inFlight = none →
    code.toNat ∉ [1, 2, 3, 4, 5, 6, 7, 8, 11, 15, 16, 17, 22, 23, 24, 0xC0, 0xC1, 0xC2, 0xD0, 0xD1, 0xD2,
      0xD3, 0xE0, 0xE1, 0xE2, 0xE3, 0xE4, 0xE5, 0xF0] →
    step s = .refused (.reservedCommandCode code)

/-- A step runs the decoded command: with a message on the port that decodes to `i` and nothing in flight,
step is exec of `i` at the state with the port free; and with the port free and nothing in flight it hands
over the host's next action, or waits. -/
def Obligations.StepRunsTheDecodedCommand : Prop :=
  ∀ s : State, s.inFlight = none →
    (∀ m i, s.port = some (.command m) → decode m = .ok i → step s = exec i { s with port := none }) ∧
    (∀ a rest, s.port = none → s.program = a :: rest →
      step s = .next { s with port := some a, program := rest }) ∧
    (s.port = none → s.program = [] → step s = .next s)

/-- Messages written out from the request formats of R57 and the command codes of R63, with the commands they
name. That a host message is an operation's request PDU, or the code and then the operand bytes, is the model's
layout (log entry 9). -/
def Obligations.KnownMessagesDecode : Prop :=
  decode [0x01, 0x00, 0x13, 0x00, 0x13] = .ok (.rdcoil 19 19) ∧
  decode [0x05, 0x00, 0xAC, 0xFF, 0x00] = .ok (.wrcoil 172 true) ∧
  decode [0x0F, 0x00, 0x13, 0x00, 0x0A, 0x02, 0xCD, 0x01] =
    .ok (.wrmcoil 19 [true, false, true, true, false, false, true, true, true, false]) ∧
  decode [0x17, 0x00, 0x03, 0x00, 0x06, 0x00, 0x0E, 0x00, 0x03, 0x06, 0x00, 0xFF, 0x00, 0xFF, 0x00, 0xFF] =
    .ok (.rwmreg 3 6 14 [255, 255, 255]) ∧
  decode [0xC0] = .ok .connect ∧
  decode [0xF0, 0x02] = .ok (.exclbl 2)

/-- Decode and encode agree: the message of every well-formed command, at every operand value, decodes to that
command. The message layout of the 14 commands without a wire format is the model's (log entry 9). -/
def Obligations.DecodeInvertsEncode : Prop :=
  ∀ i : Instr, i.wellFormed = true → decode (encode i) = .ok i

/-- Each command has one message: a message that decodes is the message of the command it names, and that
command is well formed. -/
def Obligations.DecodableMessagesAreEncodings : Prop :=
  ∀ (m : List Byte) (i : Instr), decode m = .ok i → encode i = m ∧ i.wellFormed = true

/-- The invariant holds right after reset. -/
def Obligations.ResetHasInvariant : Prop := Inv State.reset

/-- Every step keeps the invariant: a disconnected session has nothing queued, a waiting command fits the
session, every envelope handed to the link is well built and every read returned 1 to 260 bytes. -/
def Obligations.EveryStepKeepsInvariant : Prop :=
  ∀ s t : State, Inv s → step s = .next t → Inv t
end

