-- ==== Sys2Proof/Laws/Bytes.lean ====
section
/-! SUPPORT. The small facts of the byte-order functions and the converters: lengths, what each element is,
and that the two byte-order conversions invert each other. -/

namespace Sys2Proof.Machine

theorem u16be_toNat (h l : Byte) : (u16be h l).toNat = 256 * h.toNat + l.toNat := by
  have := h.isLt; have := l.isLt
  simp only [u16be, BitVec.toNat_ofNat]
  omega

@[simp] theorem u16be_be16 (v : Word) :
    u16be (BitVec.ofNat 8 (v.toNat / 256)) (BitVec.ofNat 8 (v.toNat % 256)) = v := by
  apply BitVec.eq_of_toNat_eq
  have := v.isLt
  rw [u16be_toNat]
  simp only [BitVec.toNat_ofNat]
  omega

@[simp] theorem be16_u16be (h l : Byte) : be16 (u16be h l) = [h, l] := by
  have := h.isLt; have := l.isLt
  simp only [be16, u16be_toNat, List.cons.injEq, and_true]
  constructor <;> apply BitVec.eq_of_toNat_eq <;> simp only [BitVec.toNat_ofNat] <;> omega

@[simp] theorem be16_length (v : Word) : (be16 v).length = 2 := rfl

@[simp] theorem wordsToBytes_nil : wordsToBytes [] = [] := rfl

@[simp] theorem wordsToBytes_cons (w : Word) (ws : List Word) :
    wordsToBytes (w :: ws) = BitVec.ofNat 8 (w.toNat / 256) :: BitVec.ofNat 8 (w.toNat % 256) :: wordsToBytes ws :=
  rfl

@[simp] theorem wordsToBytes_length (ws : List Word) : (wordsToBytes ws).length = 2 * ws.length := by
  induction ws with
  | nil => rfl
  | cons w ws ih => simp [ih]; omega

@[simp] theorem bytesToWords_cons_cons (h l : Byte) (rest : List Byte) :
    bytesToWords (h :: l :: rest) = u16be h l :: bytesToWords rest := by
  simp [bytesToWords]

@[simp] theorem bytesToWords_length (b : List Byte) : (bytesToWords b).length = (b.length + 1) / 2 := by
  induction b using bytesToWords.induct with
  | case1 => rfl
  | case2 b => simp [bytesToWords]
  | case3 h l rest ih => simp [ih]; omega

@[simp] theorem packBits_length (x : List Bool) : (packBits x).length = (x.length + 7) / 8 := by
  simp [packBits, ceilDiv]

@[simp] theorem unpackBits_length (b : List Byte) (q : Nat) : (unpackBits b q).length = q := by
  simp [unpackBits]

/-- Bit `j` of a packed byte is element `j`, and zero past the end. -/
theorem packByte_getLsbD (bits : List Bool) (j : Nat) (hj : j < 8) :
    (packByte bits).getLsbD j = bits.getD j false := by
  simp [packByte, hj, BitVec.getLsbD_ofBoolListLE]

/-- Bit `j` of byte `k` of a packed array is element `8k + j`. -/
theorem packBits_getElem?_getLsbD (x : List Bool) (k j : Nat) (byte : Byte)
    (h : (packBits x)[k]? = some byte) (hj : j < 8) : byte.getLsbD j = x.getD (8 * k + j) false := by
  simp only [packBits, List.getElem?_map, Option.map_eq_some_iff] at h
  obtain ⟨k', hk, rfl⟩ := h
  rw [List.getElem?_range] at hk
  · cases hk
    rw [packByte_getLsbD _ _ hj]
    simp [List.getD_eq_getElem?_getD, hj]
  · by_contra hlt
    simp [hlt] at hk

/-- Element `i` of an unpacked array is bit `i mod 8` of byte `i div 8`. -/
theorem unpackBits_getElem? (b : List Byte) (q i : Nat) (hi : i < q) :
    (unpackBits b q)[i]? = some ((b.getD (i / 8) 0).getLsbD (i % 8)) := by
  simp [unpackBits, List.getElem?_map, List.getElem?_range hi]

end Sys2Proof.Machine
end

