-- ==== Sys2Proof/Laws/Codec.lean ====
section
/-! SUPPORT. What the pure codec functions answer, by the shape of their argument, and the request payloads in
the form Safety.lean writes them. -/

namespace Sys2Proof.Machine

open Sys2Proof.Safety

theorem complete_eq (r : Result) (s : State) : complete r s = .next (answered s r) := rfl

theorem raise_eq (k : ErrKind) (s : State) : raise k s = .next (answered s (.err k)) := rfl

theorem pduEncode_zero (payload : List Byte) : pduEncode ⟨0, payload⟩ = .error .invalidFunctionCode := rfl

theorem pduEncode_tooLong {f : Byte} {payload : List Byte} (hf : f ≠ 0) (hl : 252 < payload.length) :
    pduEncode ⟨f, payload⟩ = .error .payloadTooLarge := by
  unfold pduEncode; rw [if_neg hf, if_pos hl]

theorem pduEncode_ok {f : Byte} {payload : List Byte} (hf : f ≠ 0) (hl : payload.length ≤ 252) :
    pduEncode ⟨f, payload⟩ = .ok (f :: payload) := by
  unfold pduEncode; rw [if_neg hf, if_neg (Nat.not_lt.mpr hl)]

theorem headerDecode_short (b : List Byte) (h : b.length < 7) : headerDecode b = .error .truncatedHeader := by
  match b with
  | [] => rfl
  | [_] => rfl
  | [_, _] => rfl
  | [_, _, _] => rfl
  | [_, _, _, _] => rfl
  | [_, _, _, _, _] => rfl
  | [_, _, _, _, _, _] => rfl
  | _ :: _ :: _ :: _ :: _ :: _ :: _ :: _ => simp at h; omega

theorem envelopeDecode_cons (b0 b1 b2 b3 b4 b5 b6 f : Byte) (payload : List Byte) :
    envelopeDecode (b0 :: b1 :: b2 :: b3 :: b4 :: b5 :: b6 :: f :: payload) =
      .ok (⟨u16be b0 b1, u16be b2 b3, u16be b4 b5, b6⟩, ⟨f, payload⟩) := by
  simp only [envelopeDecode, Config.minEnvelope, List.length_cons]
  rw [if_neg (by omega)]
  rfl

/-- ENVDEC has one error. -/
theorem envelopeDecode_error {b : List Byte} {k : ErrKind} (h : envelopeDecode b = .error k) :
    k = .truncatedEnvelope := by
  by_cases hb : b.length < 8
  · simp [envelopeDecode, hb] at h
    exact h.symm
  · match b, hb with
    | b0 :: b1 :: b2 :: b3 :: b4 :: b5 :: b6 :: f :: payload, _ => rw [envelopeDecode_cons] at h; cases h
    | [], hb => simp at hb
    | [_], hb => simp at hb
    | [_, _], hb => simp at hb
    | [_, _, _], hb => simp at hb
    | [_, _, _, _], hb => simp at hb
    | [_, _, _, _, _], hb => simp at hb
    | [_, _, _, _, _, _], hb => simp at hb
    | [_, _, _, _, _, _, _], hb => simp at hb

theorem requestQACB_words (addr : Word) (vals : List Word) :
    requestQACB addr vals.length (wordsToBytes vals) =
      be16 addr ++ be16 (BitVec.ofNat 16 vals.length) ++ [BitVec.ofNat 8 (2 * vals.length)]
        ++ wordsToBytes vals := by
  simp [requestQACB, countField, byteCountField]

theorem requestQACB_bits (addr : Word) (vals : List Bool) :
    requestQACB addr vals.length (packBits vals) =
      be16 addr ++ be16 (BitVec.ofNat 16 vals.length) ++ [BitVec.ofNat 8 ((vals.length + 7) / 8)]
        ++ packBits vals := by
  simp [requestQACB, countField, byteCountField]

theorem requestQRW_eq (raddr rqty waddr : Word) (vals : List Word) :
    requestQRW raddr rqty waddr vals =
      be16 raddr ++ be16 rqty ++ be16 waddr ++ be16 (BitVec.ofNat 16 vals.length)
        ++ [BitVec.ofNat 8 (2 * vals.length)] ++ wordsToBytes vals := by
  simp [requestQRW, countField, byteCountField]

/-- The envelope of SEND's steps 4 and 5 as Safety.lean writes it. -/
theorem headerEncode_requestHeader (s : State) (p : List Byte) :
    headerEncode (requestHeader s p) ++ p = requestEnvelope s.txn s.unit p := by
  simp [headerEncode, requestHeader, requestEnvelope, State.proto, be16]

end Sys2Proof.Machine
end

