-- ==== Sys2Proof/Laws/State.lean ====
section
/-! SUPPORT. One lemma per field per update of State, true by definition, so that no later proof unfolds a
record update. -/

namespace Sys2Proof.Machine

@[simp] theorem State.setLink_link (s : State) (l : LinkState) : (s.setLink l).link = l := rfl
@[simp] theorem State.setLink_txn (s : State) (l : LinkState) : (s.setLink l).txn = s.txn := rfl
@[simp] theorem State.setLink_unit (s : State) (l : LinkState) : (s.setLink l).unit = s.unit := rfl
@[simp] theorem State.setLink_inFlight (s : State) (l : LinkState) : (s.setLink l).inFlight = s.inFlight := rfl
@[simp] theorem State.setLink_port (s : State) (l : LinkState) : (s.setLink l).port = s.port := rfl
@[simp] theorem State.setLink_program (s : State) (l : LinkState) : (s.setLink l).program = s.program := rfl
@[simp] theorem State.setLink_rxQueue (s : State) (l : LinkState) : (s.setLink l).rxQueue = s.rxQueue := rfl
@[simp] theorem State.setLink_connectIn (s : State) (l : LinkState) : (s.setLink l).connectIn = s.connectIn := rfl
@[simp] theorem State.setLink_writeIn (s : State) (l : LinkState) : (s.setLink l).writeIn = s.writeIn := rfl
@[simp] theorem State.setLink_readIn (s : State) (l : LinkState) : (s.setLink l).readIn = s.readIn := rfl
@[simp] theorem State.setLink_results (s : State) (l : LinkState) : (s.setLink l).results = s.results := rfl
@[simp] theorem State.setLink_trace (s : State) (l : LinkState) : (s.setLink l).trace = s.trace := rfl

@[simp] theorem State.nextTxn_link (s : State) : (s.nextTxn).link = s.link := rfl
@[simp] theorem State.nextTxn_txn (s : State) : (s.nextTxn).txn = s.txn + 1 := rfl
@[simp] theorem State.nextTxn_unit (s : State) : (s.nextTxn).unit = s.unit := rfl
@[simp] theorem State.nextTxn_inFlight (s : State) : (s.nextTxn).inFlight = s.inFlight := rfl
@[simp] theorem State.nextTxn_port (s : State) : (s.nextTxn).port = s.port := rfl
@[simp] theorem State.nextTxn_program (s : State) : (s.nextTxn).program = s.program := rfl
@[simp] theorem State.nextTxn_rxQueue (s : State) : (s.nextTxn).rxQueue = s.rxQueue := rfl
@[simp] theorem State.nextTxn_connectIn (s : State) : (s.nextTxn).connectIn = s.connectIn := rfl
@[simp] theorem State.nextTxn_writeIn (s : State) : (s.nextTxn).writeIn = s.writeIn := rfl
@[simp] theorem State.nextTxn_readIn (s : State) : (s.nextTxn).readIn = s.readIn := rfl
@[simp] theorem State.nextTxn_results (s : State) : (s.nextTxn).results = s.results := rfl
@[simp] theorem State.nextTxn_trace (s : State) : (s.nextTxn).trace = s.trace := rfl

@[simp] theorem State.deliver_link (s : State) (r : Result) : (s.deliver r).link = s.link := rfl
@[simp] theorem State.deliver_txn (s : State) (r : Result) : (s.deliver r).txn = s.txn := rfl
@[simp] theorem State.deliver_unit (s : State) (r : Result) : (s.deliver r).unit = s.unit := rfl
@[simp] theorem State.deliver_inFlight (s : State) (r : Result) : (s.deliver r).inFlight = none := rfl
@[simp] theorem State.deliver_port (s : State) (r : Result) : (s.deliver r).port = s.port := rfl
@[simp] theorem State.deliver_program (s : State) (r : Result) : (s.deliver r).program = s.program := rfl
@[simp] theorem State.deliver_rxQueue (s : State) (r : Result) : (s.deliver r).rxQueue = s.rxQueue := rfl
@[simp] theorem State.deliver_connectIn (s : State) (r : Result) : (s.deliver r).connectIn = s.connectIn := rfl
@[simp] theorem State.deliver_writeIn (s : State) (r : Result) : (s.deliver r).writeIn = s.writeIn := rfl
@[simp] theorem State.deliver_readIn (s : State) (r : Result) : (s.deliver r).readIn = s.readIn := rfl
@[simp] theorem State.deliver_results (s : State) (r : Result) : (s.deliver r).results = s.results ++ [r] := rfl
@[simp] theorem State.deliver_trace (s : State) (r : Result) : (s.deliver r).trace = s.trace := rfl

@[simp] theorem State.await_link (s : State) (f : InFlight) : (s.await f).link = s.link := rfl
@[simp] theorem State.await_txn (s : State) (f : InFlight) : (s.await f).txn = s.txn := rfl
@[simp] theorem State.await_unit (s : State) (f : InFlight) : (s.await f).unit = s.unit := rfl
@[simp] theorem State.await_inFlight (s : State) (f : InFlight) : (s.await f).inFlight = some f := rfl
@[simp] theorem State.await_port (s : State) (f : InFlight) : (s.await f).port = s.port := rfl
@[simp] theorem State.await_program (s : State) (f : InFlight) : (s.await f).program = s.program := rfl
@[simp] theorem State.await_rxQueue (s : State) (f : InFlight) : (s.await f).rxQueue = s.rxQueue := rfl
@[simp] theorem State.await_connectIn (s : State) (f : InFlight) : (s.await f).connectIn = s.connectIn := rfl
@[simp] theorem State.await_writeIn (s : State) (f : InFlight) : (s.await f).writeIn = s.writeIn := rfl
@[simp] theorem State.await_readIn (s : State) (f : InFlight) : (s.await f).readIn = s.readIn := rfl
@[simp] theorem State.await_results (s : State) (f : InFlight) : (s.await f).results = s.results := rfl
@[simp] theorem State.await_trace (s : State) (f : InFlight) : (s.await f).trace = s.trace := rfl

@[simp] theorem State.afterReset_link (s : State) : s.afterReset.link = .disconnected := rfl
@[simp] theorem State.afterReset_txn (s : State) : s.afterReset.txn = Config.txnReset := rfl
@[simp] theorem State.afterReset_unit (s : State) : s.afterReset.unit = Config.unitId := rfl
@[simp] theorem State.afterReset_inFlight (s : State) : s.afterReset.inFlight = none := rfl
@[simp] theorem State.afterReset_port (s : State) : s.afterReset.port = none := rfl
@[simp] theorem State.afterReset_program (s : State) : s.afterReset.program = s.program := rfl
@[simp] theorem State.afterReset_rxQueue (s : State) : s.afterReset.rxQueue = [] := rfl
@[simp] theorem State.afterReset_connectIn (s : State) : s.afterReset.connectIn = s.connectIn := rfl
@[simp] theorem State.afterReset_writeIn (s : State) : s.afterReset.writeIn = s.writeIn := rfl
@[simp] theorem State.afterReset_readIn (s : State) : s.afterReset.readIn = s.readIn := rfl
@[simp] theorem State.afterReset_results (s : State) : s.afterReset.results = s.results := rfl
@[simp] theorem State.afterReset_trace (s : State) : s.afterReset.trace = s.trace := rfl

@[simp] theorem State.proto_eq (s : State) : s.proto = 0 := rfl

end Sys2Proof.Machine
end

