-- ==== Sys2Proof/Laws/Link.lean ====
section
/-! SUPPORT. The link side of an exchange: what a read gives, and how the sequence goes on where Safety.lean's
`LinkReady`, `Wrote`, `Received`, `Exchanged` and `Replied` hold. -/

namespace Sys2Proof.Machine

open Sys2Proof.Safety

/-- A read returns at least one byte and removes exactly those, or returns none and keeps the queue only if
the link stays open. -/
theorem readFrom_cases (max : Nat) (queue : List Byte) (d : ReadDraw) :
    (∃ b, readFrom max queue d = (.data b, (queue ++ arrivals d).drop b.length) ∧ b ≠ [] ∧
      ∃ count stillOpen, d = .returns (arrivals d) count stillOpen ∧
        b = (queue ++ arrivals d).take (min count max)) ∨
    (∃ a o, (a = .failed o ∨ a = .empty o) ∧
      readFrom max queue d = (a, if o then queue ++ arrivals d else [])) := by
  cases d with
  | fails arrived o => exact .inr ⟨_, o, .inl rfl, rfl⟩
  | returns arrived count o =>
    by_cases h : (queue ++ arrived).take (min count max) = []
    · refine .inr ⟨_, o, .inr rfl, ?_⟩
      simp only [readFrom, if_pos h, queueIf, arrivals]
    · refine .inl ⟨_, ?_, h, count, o, rfl, rfl⟩
      simp only [readFrom, if_neg h, arrivals]

theorem linkReady_sendConnected {s t : State} (h : LinkReady s t) (finish : Finish) (p : List Byte) :
    sendConnected finish p s = sendIssue finish p t := by
  rcases h with ⟨h, rfl⟩ | ⟨h, rest, h2, rfl⟩
  · simp [sendConnected, h]
  · simp [sendConnected, h, sendOpen, linkConnect, h2, State.setLink]

theorem linkReady_link {s t : State} (h : LinkReady s t) : t.link = .connected := by
  rcases h with ⟨h, rfl⟩ | ⟨h, rest, h2, rfl⟩ <;> simp_all

theorem linkReady_fields {s t : State} (h : LinkReady s t) :
    t.txn = s.txn ∧ t.unit = s.unit ∧ t.writeIn = s.writeIn ∧ t.readIn = s.readIn ∧
      t.inFlight = s.inFlight ∧ t.port = s.port ∧ t.program = s.program ∧ t.results = s.results ∧
      t.trace = s.trace ++ openingEvents s.link := by
  rcases h with ⟨h, rfl⟩ | ⟨h, rest, h2, rfl⟩ <;> simp [openingEvents, h]

/-- Steps 3 to 6: the write of the request envelope with the next transaction id. -/
theorem sendIssue_eq (finish : Finish) (p : List Byte) (s : State) :
    sendIssue finish p s =
      sendWrite finish (s.txn + 1) (requestEnvelope (s.txn + 1) s.unit p) s.nextTxn := by
  unfold sendIssue
  rw [headerEncode_requestHeader]
  rfl

theorem wrote_sendIssue {s t : State} {p : List Byte} (h : Wrote s p t) (finish : Finish) :
    sendIssue finish p s = sendRead finish t.txn t := by
  obtain ⟨rest, h, rfl⟩ := h
  rw [sendIssue_eq]
  simp [sendWrite, linkWrite, h, State.nextTxn]

theorem received_sendRead {s t : State} {b : List Byte} (h : Received s b t) (finish : Finish) (tid : Word) :
    sendRead finish tid s = sendCheck finish tid b t := by
  obtain ⟨arrived, n, o, rest, h, hb, hne, rfl⟩ := h
  simp [sendRead, linkRead, h, readFrom, Config.rxMax, ← hb, hne]

theorem exchanged_sendConnected {s t : State} {p b : List Byte} (h : Exchanged s p b t) (finish : Finish) :
    sendConnected finish p s = sendCheck finish (s.txn + 1) b t := by
  obtain ⟨s0, s1, h0, h1, h2⟩ := h
  rw [linkReady_sendConnected h0, wrote_sendIssue h1, received_sendRead h2]
  obtain ⟨rest, _, rfl⟩ := h1
  rw [(linkReady_fields h0).1]

theorem replied_sendConnected {s t : State} {p payload : List Byte} {f : Byte} (h : Replied s p f payload t)
    (finish : Finish) : sendConnected finish p s = finishExchange finish ⟨f, payload⟩ t := by
  obtain ⟨x1, x0, l1, l0, u, h⟩ := h
  rw [exchanged_sendConnected h]
  simp only [be16, List.cons_append, List.nil_append, sendCheck, envelopeDecode_cons, u16be_be16]
  rw [if_neg (by simp)]

end Sys2Proof.Machine
end

