-- ==== Sys2Proof/Laws/Sequence.lean ====
section
/-! SUPPORT. One lemma per shared operation of the exchange sequence that says once everything it can do when
it answers a next state; callers cite these and never unfold the sequence. -/

namespace Sys2Proof.Machine

open Sys2Proof.Safety

/-- The results that only step 8 and later give: everything but the two encoding errors and the link's
errors. -/
def Result.afterRead : Result → Bool
  | .ok _ => true
  | .err .truncatedEnvelope => true
  | .err .transactionMismatch => true
  | .err .unexpectedCoilCount => true
  | .err (.protocolException _ _) => true
  | .err .invalidFunctionCode => false
  | .err .payloadTooLarge => false
  | .err .truncatedPdu => false
  | .err .truncatedHeader => false
  | .err .connectionError => false
  | .err .notConnected => false
  | .err .writeError => false
  | .err .readError => false

/-- A read that gives no byte, and the state with S.LINK at the link's report. -/
def FailedRead (s : State) (a : ReadAnswer) (stillOpen : Bool) (t : State) : Prop :=
  ∃ d rest, s.readIn = d :: rest ∧ (a = .failed stillOpen ∨ a = .empty stillOpen) ∧
    t = { s with
      readIn := rest, link := reported stillOpen,
      rxQueue := if stillOpen then s.rxQueue ++ arrivals d else [],
      trace := s.trace ++ [.read a] }

theorem decodeResponse_afterRead {format : RespFormat} {payload : List Byte} {r : Result}
    (h : decodeResponse format payload = some r) : r.afterRead = true := by
  cases format <;> simp only [decodeResponse] at h
  case pb q => cases payload <;> simp [decodePB] at h; obtain ⟨_, _, rfl⟩ := h; rfl
  case pw => cases payload <;> simp [decodePW] at h; subst h; rfl
  case pw0 => cases payload <;> simp [decodePW0] at h; subst h; rfl
  case pn => simp [decodePN] at h; subst h; rfl
  case pc n =>
    unfold decodePC at h
    split at h
    · simp at h; subst h; split <;> rfl
    · cases h
  case pe => cases payload <;> simp [decodePE] at h; subst h; rfl
  case pd => unfold decodePD at h; split at h <;> simp at h; subst h; rfl
  case pg => unfold decodePG at h; split at h <;> simp at h; subst h; rfl
  case pr => simp [decodePR] at h; subst h; rfl
  case pf => unfold decodePF at h; split at h <;> simp at h; subst h; rfl

theorem finishExchange_cases {finish : Finish} {rsp : Pdu} {s t : State}
    (h : finishExchange finish rsp s = .next t) : ∃ r, r.afterRead = true ∧ t = answered s r := by
  cases finish with
  | send => cases h; exact ⟨_, rfl, rfl⟩
  | operation function format =>
    simp only [finishExchange] at h
    split at h
    · split at h
      · cases h
      · cases h; exact ⟨_, rfl, rfl⟩
    · split at h
      · cases h
      · cases h; exact ⟨_, decodeResponse_afterRead ‹_›, rfl⟩

theorem sendCheck_cases {finish : Finish} {tid : Word} {b : List Byte} {s t : State}
    (h : sendCheck finish tid b s = .next t) : ∃ r, r.afterRead = true ∧ t = answered s r := by
  unfold sendCheck at h
  split at h
  · rename_i k hk
    cases h
    rw [envelopeDecode_error hk]
    exact ⟨_, rfl, rfl⟩
  · split at h
    · cases h; exact ⟨_, rfl, rfl⟩
    · exact finishExchange_cases h

theorem sendRead_cases {finish : Finish} {tid : Word} {s t : State} (h : sendRead finish tid s = .next t) :
    (s.readIn = [] ∧ t = s.await (.reading finish tid)) ∨
    (∃ a o s', FailedRead s a o s' ∧ t = answered s' (.err .readError)) ∨
    (∃ b s' r, Received s b s' ∧ r.afterRead = true ∧ t = answered s' r) := by
  cases hr : s.readIn with
  | nil =>
    left
    simp [sendRead, linkRead, hr, wait] at h
    exact ⟨rfl, h.symm⟩
  | cons d rest =>
    right
    simp only [sendRead, linkRead, hr, Config.rxMax] at h
    rcases readFrom_cases 260 s.rxQueue d with ⟨b, hb, hne, n, o, hd, hbt⟩ | ⟨a, o, ha, hb⟩
    · right
      rw [hb] at h
      obtain ⟨r, hl, rfl⟩ := sendCheck_cases h
      exact ⟨b, _, r, ⟨arrivals d, n, o, rest, by rw [hr, ← hd], hbt, hne, rfl⟩, hl, rfl⟩
    · left
      rw [hb] at h
      refine ⟨a, o, _, ⟨d, rest, hr, ha, rfl⟩, ?_⟩
      rcases ha with rfl | rfl <;> cases h <;> rfl

theorem sendWrite_cases {finish : Finish} {tid : Word} {e : List Byte} {s t : State}
    (h : sendWrite finish tid e s = .next t) :
    (s.writeIn = [] ∧ t = s.await (.writing finish tid e)) ∨
    (∃ o n rest, s.writeIn = .failed o n :: rest ∧
      t = answered
        { s with
          writeIn := rest, link := reported o, rxQueue := if o then s.rxQueue else [],
          trace := s.trace ++ [.write e (.failed o n)] } (.err .writeError)) ∨
    (∃ rest, s.writeIn = .written :: rest ∧
      sendRead finish tid { s with writeIn := rest, trace := s.trace ++ [.write e .written] } = .next t) := by
  cases hr : s.writeIn with
  | nil =>
    left
    simp [sendWrite, linkWrite, hr, wait] at h
    exact ⟨rfl, h.symm⟩
  | cons a rest =>
    right
    simp only [sendWrite, linkWrite, hr] at h
    cases a with
    | written => exact .inr ⟨rest, rfl, h⟩
    | failed o n => left; cases h; exact ⟨o, n, rest, rfl, rfl⟩

theorem sendOpen_cases {finish : Finish} {p : List Byte} {s t : State} (h : sendOpen finish p s = .next t) :
    (s.connectIn = [] ∧ t = s.await (.opening finish p)) ∨
    (∃ rest, s.connectIn = .failed :: rest ∧
      t = answered { s with connectIn := rest, trace := s.trace ++ [.connect .failed] }
        (.err .connectionError)) ∨
    (∃ rest, s.connectIn = .opened :: rest ∧
      sendIssue finish p
        { s with
          link := .connected, connectIn := rest, rxQueue := [],
          trace := s.trace ++ [.connect .opened] } = .next t) := by
  cases hr : s.connectIn with
  | nil =>
    left
    simp [sendOpen, linkConnect, hr, wait] at h
    exact ⟨rfl, h.symm⟩
  | cons a rest =>
    right
    simp only [sendOpen, linkConnect, hr] at h
    cases a with
    | opened => exact .inr ⟨rest, rfl, h⟩
    | failed => left; cases h; exact ⟨rest, rfl, rfl⟩

theorem connectOpen_cases {s t : State} (h : connectOpen s = .next t) :
    (s.connectIn = [] ∧ t = s.await .connect) ∨
    (∃ rest, s.connectIn = .failed :: rest ∧
      t = answered { s with connectIn := rest, trace := s.trace ++ [.connect .failed] }
        (.err .connectionError)) ∨
    (∃ rest, s.connectIn = .opened :: rest ∧
      t = answered
        { s with
          link := .connected, connectIn := rest, rxQueue := [],
          trace := s.trace ++ [.connect .opened] } (.ok .nothing)) := by
  cases hr : s.connectIn with
  | nil =>
    left
    simp [connectOpen, linkConnect, hr, wait] at h
    exact ⟨rfl, h.symm⟩
  | cons a rest =>
    right
    simp only [connectOpen, linkConnect, hr] at h
    cases a with
    | opened => right; cases h; exact ⟨rest, rfl, rfl⟩
    | failed => left; cases h; exact ⟨rest, rfl, rfl⟩

/-- Everything steps 2 to 10 can end in with a next state: waiting at step 2, 6 or 7, a failure of the link
at one of them, or a result after a read. -/
inductive ExchangeEnd (p : List Byte) (s : State) (finish : Finish) (t : State) : Prop
  | opening (hl : s.link = .disconnected) (hc : s.connectIn = []) (ht : t = s.await (.opening finish p))
  | connectFails (rest : List ConnectAnswer) (hl : s.link = .disconnected)
      (hc : s.connectIn = .failed :: rest)
      (ht : t = answered { s with connectIn := rest, trace := s.trace ++ [.connect .failed] }
        (.err .connectionError))
  | writing (s0 : State) (h0 : LinkReady s s0) (hw : s0.writeIn = [])
      (ht : t = s0.nextTxn.await
        (.writing finish (s.txn + 1) (requestEnvelope (s.txn + 1) s.unit p)))
  | writeFails (s0 : State) (o : Bool) (n : Nat) (rest : List WriteAnswer) (h0 : LinkReady s s0)
      (hw : s0.writeIn = .failed o n :: rest)
      (ht : t = answered
        { s0 with
          txn := s.txn + 1, writeIn := rest, link := reported o,
          rxQueue := if o then s0.rxQueue else [],
          trace := s0.trace ++ [.write (requestEnvelope (s.txn + 1) s.unit p) (.failed o n)] }
        (.err .writeError))
  | reading (s0 s1 : State) (h0 : LinkReady s s0) (h1 : Wrote s0 p s1) (hr : s1.readIn = [])
      (ht : t = s1.await (.reading finish (s.txn + 1)))
  | readFails (s0 s1 s2 : State) (a : ReadAnswer) (o : Bool) (h0 : LinkReady s s0) (h1 : Wrote s0 p s1)
      (h2 : FailedRead s1 a o s2) (ht : t = answered s2 (.err .readError))
  | done (s0 s1 s2 : State) (b : List Byte) (r : Result) (h0 : LinkReady s s0) (h1 : Wrote s0 p s1)
      (h2 : Received s1 b s2) (hr : r.afterRead = true) (ht : t = answered s2 r)

theorem sendIssue_cases {finish : Finish} {p : List Byte} {s s0 t : State} (hr : LinkReady s s0)
    (h : sendIssue finish p s0 = .next t) : ExchangeEnd p s finish t := by
  have hf := linkReady_fields hr
  rw [sendIssue_eq, hf.1, hf.2.1] at h
  rcases sendWrite_cases h with ⟨hw, rfl⟩ | ⟨o, n, rest, hw, rfl⟩ | ⟨rest, hw, h⟩
  · exact .writing s0 hr hw rfl
  · refine .writeFails s0 o n rest hr hw ?_
    simp [State.nextTxn, hf.1]
  · have hw1 : Wrote s0 p
        { s0.nextTxn with
          writeIn := rest
          trace := s0.nextTxn.trace ++ [.write (requestEnvelope (s.txn + 1) s.unit p) .written] } := by
      refine ⟨rest, hw, ?_⟩
      simp [State.nextTxn, hf.1, hf.2.1]
    rcases sendRead_cases h with ⟨h1, rfl⟩ | ⟨a, o, s', h1, rfl⟩ | ⟨b, s', r, h1, hl, rfl⟩
    · exact .reading s0 _ hr hw1 h1 rfl
    · exact .readFails s0 _ s' a o hr hw1 h1 rfl
    · exact .done s0 _ s' b r hr hw1 h1 hl rfl

theorem sendConnected_cases {finish : Finish} {p : List Byte} {s t : State}
    (h : sendConnected finish p s = .next t) : ExchangeEnd p s finish t := by
  cases hl : s.link with
  | connected =>
    simp only [sendConnected, hl] at h
    exact sendIssue_cases (.inl ⟨hl, rfl⟩) h
  | disconnected =>
    simp only [sendConnected, hl] at h
    rcases sendOpen_cases h with ⟨h1, rfl⟩ | ⟨rest, h1, rfl⟩ | ⟨rest, h1, h2⟩
    · exact .opening hl h1 rfl
    · exact .connectFails rest hl h1 rfl
    · exact sendIssue_cases (.inr ⟨hl, rest, h1, rfl⟩) h2

/-- A PDU that encodes goes on to step 2 in its encoded form. -/
theorem exchange_ok {pdu : Pdu} (hf : pdu.function ≠ 0) (hl : pdu.payload.length ≤ 252) (finish : Finish)
    (s : State) : exchange finish pdu s = sendConnected finish (pdu.function :: pdu.payload) s := by
  obtain ⟨f, p⟩ := pdu
  simp [exchange, pduEncode_ok hf hl]

theorem exchange_cases {finish : Finish} {pdu : Pdu} {s t : State} (h : exchange finish pdu s = .next t) :
    (pdu.function = 0 ∧ t = answered s (.err .invalidFunctionCode)) ∨
    (pdu.function ≠ 0 ∧ 252 < pdu.payload.length ∧ t = answered s (.err .payloadTooLarge)) ∨
    (pdu.function ≠ 0 ∧ pdu.payload.length ≤ 252 ∧
      ExchangeEnd (pdu.function :: pdu.payload) s finish t) := by
  by_cases hf : pdu.function = 0
  · left
    obtain ⟨f, p⟩ := pdu
    cases hf
    cases h
    exact ⟨rfl, rfl⟩
  · by_cases hl : 252 < pdu.payload.length
    · right; left
      obtain ⟨f, p⟩ := pdu
      simp [exchange, pduEncode_tooLong hf hl, raise_eq] at h
      exact ⟨hf, hl, h.symm⟩
    · right; right
      rw [exchange_ok hf (Nat.not_lt.mp hl)] at h
      exact ⟨hf, Nat.not_lt.mp hl, sendConnected_cases h⟩

end Sys2Proof.Machine
end

