-- ==== Sys2Proof/Laws/Machine.lean ====
section
/-! SUPPORT. Everything `exec` and `step` can do when they answer a next state, said once. -/

namespace Sys2Proof.Machine

open Sys2Proof.Safety

/-- SEND and the 15 operations are the one exchange of their request PDU; what differs is the finish. -/
theorem exec_exchange (i : Instr) (pdu : Pdu) (h : requestPdu i = some pdu) :
    ∃ finish, finishWf finish = true ∧ (∀ s, exec i s = exchange finish pdu s) ∧
      (responseFormat i = none → finish = .send) ∧
      (∀ format, responseFormat i = some format → finish = .operation pdu.function format) := by
  cases i <;> simp only [requestPdu, Option.some.injEq, reduceCtorEq] at h <;> subst h
  case send p => exact ⟨.send, rfl, fun _ => rfl, fun _ => rfl, by intro format h; cases h⟩
  case wrmcoil a v =>
    exact ⟨.operation 15 (.pc v.length), rfl,
      fun s => by simp only [exec, execWRMCOIL, operation, requestQACB_bits],
      (by intro h; cases h), (by intro format h; cases h; rfl)⟩
  case wrmreg a v =>
    exact ⟨.operation 16 .pn, rfl,
      fun s => by simp only [exec, execWRMREG, operation, requestQACB_words],
      (by intro h; cases h), (by intro format h; cases h; rfl)⟩
  case rwmreg a b c v =>
    exact ⟨.operation 23 .pw0, rfl,
      fun s => by simp only [exec, execRWMREG, operation, requestQRW_eq],
      (by intro h; cases h), (by intro format h; cases h; rfl)⟩
  all_goals
    exact ⟨.operation _ _, rfl, fun s => rfl, (by intro h; cases h), (by intro format h; cases h; rfl)⟩

theorem completeWith_cases {α : Type} {value : α → Value} {r : Except ErrKind α} {s t : State}
    (h : completeWith value r s = .next t) : ∃ result, t = answered s result := by
  cases r <;> cases h <;> exact ⟨_, rfl⟩

theorem execUNPKB_cases {bytes : List Byte} {qty : Nat} {s t : State}
    (h : execUNPKB bytes qty s = .next t) : ∃ result, t = answered s result := by
  unfold execUNPKB at h
  split at h
  · cases h
  · cases h; exact ⟨_, rfl⟩

theorem execCLOSE_cases {s t : State} (h : execCLOSE s = .next t) :
    (∃ result, t = answered s result) ∨
    (s.link = .connected ∧
      t = answered
        { s with link := .disconnected, rxQueue := [], trace := s.trace ++ [.close] } (.ok .nothing)) := by
  unfold execCLOSE at h
  split at h
  · cases h; exact .inl ⟨_, rfl⟩
  · cases h; exact .inr ⟨‹_›, rfl⟩

/-- A command that exchanges nothing hands a result over, or opens, or closes. -/
theorem exec_cases {i : Instr} {s t : State} (h : exec i s = .next t) :
    (∃ pdu finish, requestPdu i = some pdu ∧ finishWf finish = true ∧ exchange finish pdu s = .next t) ∨
    (requestPdu i = none ∧
      ((∃ result, t = answered s result) ∨
       (s.link = .disconnected ∧ connectOpen s = .next t) ∨
       (s.link = .connected ∧
         t = answered
           { s with link := .disconnected, rxQueue := [], trace := s.trace ++ [.close] } (.ok .nothing)))) := by
  cases hp : requestPdu i with
  | some pdu =>
    obtain ⟨finish, hw, he, -, -⟩ := exec_exchange i pdu hp
    exact .inl ⟨pdu, finish, rfl, hw, by rw [← he, h]⟩
  | none =>
    right
    refine ⟨rfl, ?_⟩
    cases i <;> simp only [requestPdu, reduceCtorEq] at hp
    case connect =>
      simp only [exec, execCONNECT] at h
      split at h
      · cases h
      · exact .inr (.inl ⟨‹_›, h⟩)
    case close => exact (execCLOSE_cases h).imp id .inr
    case unpkb b q => exact .inl (execUNPKB_cases h)
    case pduenc p => exact .inl (completeWith_cases h)
    case pdudec b => exact .inl (completeWith_cases h)
    case hdrdec b => exact .inl (completeWith_cases h)
    case envenc hd p => exact .inl (completeWith_cases h)
    case envdec b => exact .inl (completeWith_cases h)
    all_goals (cases h; exact .inl ⟨_, rfl⟩)

/-- A step runs the command on the port, or resets, or goes on with the command in flight, or hands over the
host's next action, or waits. -/
theorem step_cases {s t : State} (h : step s = .next t) :
    (∃ m i, s.port = some (.command m) ∧ s.inFlight = none ∧ decode m = .ok i ∧
      exec i { s with port := none } = .next t) ∨
    (s.port = some .reset ∧ s.inFlight = none ∧ t = s.afterReset) ∨
    (s.port = none ∧ ∃ f, s.inFlight = some f ∧ resume f s = .next t) ∨
    (s.port = none ∧ s.inFlight = none ∧
      ((s.program = [] ∧ t = s) ∨
        ∃ a rest, s.program = a :: rest ∧ t = { s with port := some a, program := rest })) := by
  unfold step at h
  split at h
  · rename_i m hm
    unfold fetch at h
    split at h
    · cases h
    · rename_i i s' hf
      split at hf
      · cases hf
      · split at hf
        · cases hf
        · cases hf
          exact .inl ⟨m, i, hm, ‹_›, ‹_›, h⟩
  · rename_i hp
    unfold takeReset at h
    split at h
    · cases h
    · cases h
      exact .inr (.inl ⟨hp, ‹_›, rfl⟩)
  · rename_i hp
    unfold proceed at h
    split at h
    · exact .inr (.inr (.inl ⟨hp, _, ‹_›, h⟩))
    · refine .inr (.inr (.inr ⟨hp, ‹_›, ?_⟩))
      split at h
      · cases h; exact .inl ⟨‹_›, rfl⟩
      · cases h; exact .inr ⟨_, _, ‹_›, rfl⟩

end Sys2Proof.Machine
end

