-- ==== Sys2Proof/Laws/PerInstr.lean ====
section
/-! SUPPORT. What is said of each command as syntax: its message starts with its command code, and the code
table assigns that code (spec/30_encoding.md R63). -/

namespace Sys2Proof.Laws.CommandCode

/-- The message of the command starts with its command code, which the code table assigns (R63). -/
def Statement (i : Instr) : Prop :=
  ∃ operands, encode i = commandCode i :: operands ∧ (operandParser (commandCode i).toNat).isSome = true

theorem rdcoil (addr qty : Word) : Statement (.rdcoil addr qty) := ⟨_, rfl, rfl⟩
theorem rddi (addr qty : Word) : Statement (.rddi addr qty) := ⟨_, rfl, rfl⟩
theorem rdhr (addr qty : Word) : Statement (.rdhr addr qty) := ⟨_, rfl, rfl⟩
theorem rdir (addr qty : Word) : Statement (.rdir addr qty) := ⟨_, rfl, rfl⟩
theorem wrcoil (addr : Word) (val : Bool) : Statement (.wrcoil addr val) := ⟨_, rfl, rfl⟩
theorem wrreg (addr val : Word) : Statement (.wrreg addr val) := ⟨_, rfl, rfl⟩
theorem rdexst : Statement (.rdexst) := ⟨_, rfl, rfl⟩
theorem diag (sub : Word) (data : List Word) : Statement (.diag sub data) := ⟨_, rfl, rfl⟩
theorem gcec : Statement (.gcec) := ⟨_, rfl, rfl⟩
theorem wrmcoil (addr : Word) (vals : List Bool) : Statement (.wrmcoil addr vals) := ⟨_, rfl, rfl⟩
theorem wrmreg (addr : Word) (vals : List Word) : Statement (.wrmreg addr vals) := ⟨_, rfl, rfl⟩
theorem rptid : Statement (.rptid) := ⟨_, rfl, rfl⟩
theorem maskwr (addr andMask orMask : Word) : Statement (.maskwr addr andMask orMask) := ⟨_, rfl, rfl⟩
theorem rwmreg (raddr rqty waddr : Word) (vals : List Word) : Statement (.rwmreg raddr rqty waddr vals) := ⟨_, rfl, rfl⟩
theorem rdfifo (addr : Word) : Statement (.rdfifo addr) := ⟨_, rfl, rfl⟩
theorem connect : Statement (.connect) := ⟨_, rfl, rfl⟩
theorem close : Statement (.close) := ⟨_, rfl, rfl⟩
theorem send (pdu : Pdu) : Statement (.send pdu) := ⟨_, rfl, rfl⟩
theorem w2b (words : List Word) : Statement (.w2b words) := ⟨_, rfl, rfl⟩
theorem b2w (bytes : List Byte) : Statement (.b2w bytes) := ⟨_, rfl, rfl⟩
theorem packb (bits : List Bool) : Statement (.packb bits) := ⟨_, rfl, rfl⟩
theorem unpkb (bytes : List Byte) (qty : Nat) : Statement (.unpkb bytes qty) := ⟨_, rfl, rfl⟩
theorem pduenc (pdu : Pdu) : Statement (.pduenc pdu) := ⟨_, rfl, rfl⟩
theorem pdudec (bytes : List Byte) : Statement (.pdudec bytes) := ⟨_, rfl, rfl⟩
theorem hdrenc (header : Header) : Statement (.hdrenc header) := ⟨_, rfl, rfl⟩
theorem hdrdec (bytes : List Byte) : Statement (.hdrdec bytes) := ⟨_, rfl, rfl⟩
theorem envenc (header : Header) (pdu : Pdu) : Statement (.envenc header pdu) := ⟨_, rfl, rfl⟩
theorem envdec (bytes : List Byte) : Statement (.envdec bytes) := ⟨_, rfl, rfl⟩
theorem exclbl (code : Byte) : Statement (.exclbl code) := ⟨_, rfl, rfl⟩

end Sys2Proof.Laws.CommandCode
end

