-- ==== Sys2Proof/Tests/Slice0.lean ====
section
/-! SUPPORT. The model's own tests. Expected values are the worked examples and vectors of
spec/95_test_vectors.md (their ids stand in the comments) and the layouts of spec/30_encoding.md; at the end,
for each statement with hypotheses, a concrete state and operands that meet them. -/

namespace Sys2Proof.Tests

open Sys2Proof.Machine Sys2Proof.Safety

/-! ## Helpers -/

/-- A session of unit 1 that is open, as the vectors' start states `(Conn, txn)`. -/
def conn (txn : Word) : State := { State.reset with link := .connected, txn := txn, unit := 1 }

/-- A session of unit 1 that is not open, `(Disc, txn)`. -/
def disc (txn : Word) : State := { State.reset with txn := txn, unit := 1 }

/-- The link takes the write, and the read gives the bytes. -/
def answering (s : State) (bytes : List Byte) : State :=
  { s with writeIn := [.written], readIn := [.returns bytes 260 true] }

/-- A response envelope with id 1 from unit 1. -/
def responseEnvelope (pdu : List Byte) : List Byte :=
  [0x00, 0x01, 0x00, 0x00, 0x00, BitVec.ofNat 8 (pdu.length + 1), 0x01] ++ pdu

/-- An open session whose peer answers the first request with the PDU. -/
def replying (pdu : List Byte) : State := answering (conn 0) (responseEnvelope pdu)

/-- The one result of a step with S.LINK, S.TXN and the link events after it. -/
def seen : Out → Option (List Result × LinkState × Word × List LinkEvent)
  | .next t => some (t.results, t.link, t.txn, t.trace)
  | .fault _ => none
  | .refused _ => none

def results : Out → Option (List Result)
  | .next t => some t.results
  | .fault _ => none
  | .refused _ => none

def refusal : Out → Option Refusal
  | .next _ => none
  | .fault _ => none
  | .refused r => some r

/-- The request PDU in the first write of a step. -/
def sentPdu : Out → Option (List Byte)
  | .next t =>
    match t.trace with
    | .write e _ :: _ => some (e.drop 7)
    | _ => none
  | .fault _ => none
  | .refused _ => none

def decoded (m : List Byte) : Option Instr := (decode m).toOption

/-! ## Well-formedness -/

theorem test_unpkb_count_too_large : (Instr.unpkb [] 4294967296).wellFormed = false := by decide
theorem test_unpkb_count_largest : (Instr.unpkb [] 4294967295).wellFormed = true := by decide

/-! ## Decoding, from R57 and R63 (and from the model's own layout, log entry 9, for the 14 others) -/

theorem test_decode_rdcoil : decoded [0x01, 0x00, 0x13, 0x00, 0x13] = some (.rdcoil 19 19) := by decide -- O1
theorem test_decode_rddi : decoded [0x02, 0x00, 0xC4, 0x00, 0x16] = some (.rddi 196 22) := by decide -- O5
theorem test_decode_rdhr : decoded [0x03, 0x00, 0x6B, 0x00, 0x03] = some (.rdhr 107 3) := by decide -- O6
theorem test_decode_rdir : decoded [0x04, 0x00, 0x08, 0x00, 0x01] = some (.rdir 8 1) := by decide -- O7c
theorem test_decode_wrcoil : decoded [0x05, 0x00, 0xAC, 0xFF, 0x00] = some (.wrcoil 172 true) := by decide -- O7d
theorem test_decode_wrcoil_false : decoded [0x05, 0x00, 0xAC, 0x00, 0x00] = some (.wrcoil 172 false) := by
  decide -- O7e
theorem test_decode_wrreg : decoded [0x06, 0x00, 0x01, 0x00, 0x03] = some (.wrreg 1 3) := by decide -- O7f
theorem test_decode_rdexst : decoded [0x07] = some .rdexst := by decide -- O25
theorem test_decode_diag : decoded [0x08, 0x00, 0x00, 0xA5, 0x37] = some (.diag 0 [0xA537]) := by decide -- O28
theorem test_decode_gcec : decoded [0x0B] = some .gcec := by decide -- O31
theorem test_decode_wrmcoil :
    decoded [0x0F, 0x00, 0x13, 0x00, 0x0A, 0x02, 0xCD, 0x01] =
      some (.wrmcoil 19 [true, false, true, true, false, false, true, true, true, false]) := by decide -- O7g
theorem test_decode_wrmcoil_empty : decoded [0x0F, 0x00, 0x05, 0x00, 0x00, 0x00] = some (.wrmcoil 5 []) := by
  decide -- O11
theorem test_decode_wrmreg :
    decoded [0x10, 0x00, 0x01, 0x00, 0x02, 0x04, 0x00, 0x0A, 0x01, 0x02] =
      some (.wrmreg 1 [0x000A, 0x0102]) := by decide -- O14
theorem test_decode_rptid : decoded [0x11] = some .rptid := by decide -- O36
theorem test_decode_maskwr :
    decoded [0x16, 0x00, 0x04, 0x00, 0xF2, 0x00, 0x25] = some (.maskwr 4 0x00F2 0x0025) := by decide -- O21
theorem test_decode_rwmreg :
    decoded [0x17, 0x00, 0x03, 0x00, 0x06, 0x00, 0x0E, 0x00, 0x03, 0x06, 0x00, 0xFF, 0x00, 0xFF, 0x00, 0xFF] =
      some (.rwmreg 3 6 14 [255, 255, 255]) := by decide -- O17
theorem test_decode_rdfifo : decoded [0x18, 0x04, 0xDE] = some (.rdfifo 0x04DE) := by decide -- O22
theorem test_decode_connect : decoded [0xC0] = some .connect := by decide
theorem test_decode_close : decoded [0xC1] = some .close := by decide
theorem test_decode_send : decoded [0xC2, 0x07, 0x01, 0x02] = some (.send ⟨7, [1, 2]⟩) := by decide
theorem test_decode_w2b : decoded [0xD0, 0x04, 0xD2, 0x00, 0x0A] = some (.w2b [1234, 10]) := by decide
theorem test_decode_b2w : decoded [0xD1, 0x04, 0xD2, 0x0A] = some (.b2w [0x04, 0xD2, 0x0A]) := by decide
theorem test_decode_packb : decoded [0xD2, 0x01, 0x00, 0x01] = some (.packb [true, false, true]) := by decide
theorem test_decode_unpkb : decoded [0xD3, 0x00, 0x00, 0x01, 0x02, 0xA5] = some (.unpkb [0xA5] 258) := by decide
theorem test_decode_pduenc : decoded [0xE0, 0x03, 0x6B] = some (.pduenc ⟨3, [0x6B]⟩) := by decide
theorem test_decode_pdudec : decoded [0xE1, 0x03, 0x6B] = some (.pdudec [3, 0x6B]) := by decide
theorem test_decode_hdrenc :
    decoded [0xE2, 0x00, 0x0F, 0x00, 0x05, 0x00, 0x03, 0x09] = some (.hdrenc ⟨15, 5, 3, 9⟩) := by decide
theorem test_decode_hdrdec : decoded [0xE3, 0x00, 0x0F] = some (.hdrdec [0x00, 0x0F]) := by decide
theorem test_decode_envenc :
    decoded [0xE4, 0x00, 0x0F, 0x00, 0x05, 0x00, 0x03, 0x09, 0x04, 0x02] =
      some (.envenc ⟨15, 5, 3, 9⟩ ⟨4, [2]⟩) := by decide
theorem test_decode_envdec : decoded [0xE5, 0x00, 0x0F] = some (.envdec [0x00, 0x0F]) := by decide
theorem test_decode_exclbl : decoded [0xF0, 0x02] = some (.exclbl 2) := by decide

/-- Code 0x09 is reserved (R64). -/
theorem test_decode_reserved : decode [0x09, 0x00] = .error (.reserved 9) := by rfl
/-- A coil value other than FF 00 and 00 00 names no command (R56). -/
theorem test_decode_coil_value : decode [0x05, 0x00, 0xAC, 0x00, 0xFF] = .error (.operands 5) := by rfl
/-- A byte count that is not the array's names no command (R56). -/
theorem test_decode_byte_count : decoded [0x10, 0x00, 0x01, 0x00, 0x01, 0x03, 0x00, 0x0A] = none := by decide

/-- The table's word of RDHR, and of CLOSE, with zero operand bytes. -/
theorem test_table_word : decodeTableWord 8 0x03 = some (.rdhr 0 0) := by decide
theorem test_table_word_close : decodeTableWord 8 0xC1 = some .close := by decide
theorem test_table_word_reserved : decodeTableWord 8 0x09 = none := by decide
/-- The very next step after `withFetchWord` runs the command: CLOSE on a disconnected session (T4). -/
theorem test_fetch_word : results (step (State.reset.withFetchWord 8 0xC1)) = some [.err .notConnected] := by
  decide

/-! ## Layers L0 and L1 -/

theorem test_w2b :
    results (exec (.w2b [0, 0xFFFF, 0x8000, 0x00FF]) (disc 0)) =
      some [.ok (.bytes [0x00, 0x00, 0xFF, 0xFF, 0x80, 0x00, 0x00, 0xFF])] := by decide -- V3
theorem test_b2w_odd :
    results (exec (.b2w [0x04, 0xD2, 0x0A]) (disc 0)) = some [.ok (.words [1234, 10])] := by decide -- S7
theorem test_b2w :
    results (exec (.b2w [0xFF, 0xFF, 0x80, 0x00, 0x7F]) (disc 0)) =
      some [.ok (.words [65535, 32768, 127])] := by decide -- V7
theorem test_packb :
    results (exec (.packb [true, false, true, true, false, false, true, true, true, false]) (disc 0)) =
      some [.ok (.bytes [0xCD, 0x01])] := by decide -- V15
theorem test_packb_msb :
    results (exec (.packb [false, false, false, false, false, false, false, true]) (disc 0)) =
      some [.ok (.bytes [0x80])] := by decide -- V12
theorem test_unpkb :
    results (exec (.unpkb [0xFF] 3) (disc 0)) = some [.ok (.bools [true, true, true])] := by decide -- V18
theorem test_unpkb_refused : refusal (exec (.unpkb [0xFF] 9) (disc 0)) = some .unpackTooFewBits := by decide -- V23
theorem test_pduenc :
    results (exec (.pduenc ⟨255, [0xAA]⟩) (disc 0)) = some [.ok (.bytes [0xFF, 0xAA])] := by decide -- V32
theorem test_pduenc_zero :
    results (exec (.pduenc ⟨0, []⟩) (disc 0)) = some [.err .invalidFunctionCode] := by decide -- V33
theorem test_pdudec :
    results (exec (.pdudec [0x00, 0x01, 0x02]) (disc 0)) = some [.ok (.pdu ⟨0, [1, 2]⟩)] := by decide -- V40
theorem test_pdudec_empty : results (exec (.pdudec []) (disc 0)) = some [.err .truncatedPdu] := by decide -- V37
theorem test_hdrenc :
    results (exec (.hdrenc ⟨0x1234, 0, 6, 0x11⟩) (disc 0)) =
      some [.ok (.bytes [0x12, 0x34, 0x00, 0x00, 0x00, 0x06, 0x11])] := by decide -- V53
theorem test_hdrdec :
    results (exec (.hdrdec [0x00, 0x0F, 0x00, 0x05, 0x00, 0x03, 0x09, 0x04, 0x02]) (disc 0)) =
      some [.ok (.header ⟨15, 5, 3, 9⟩)] := by decide -- V57
theorem test_hdrdec_short :
    results (exec (.hdrdec [0x00, 0x0F, 0x00, 0x05, 0x00, 0x03]) (disc 0)) =
      some [.err .truncatedHeader] := by decide -- V55
theorem test_envenc :
    results (exec (.envenc ⟨1, 0, 999, 1⟩ ⟨3, []⟩) (disc 0)) =
      some [.ok (.bytes [0x00, 0x01, 0x00, 0x00, 0x03, 0xE7, 0x01, 0x03])] := by decide -- V59
theorem test_envdec :
    results (exec (.envdec [0x00, 0x0F, 0x00, 0x05, 0x00, 0x03, 0x09, 0x04, 0x02]) (disc 0)) =
      some [.ok (.envelope ⟨15, 5, 3, 9⟩ ⟨4, [2]⟩)] := by decide -- S6
theorem test_envdec_short :
    results (exec (.envdec [0x00, 0x01, 0x00, 0x00, 0x00, 0x02, 0x01]) (disc 0)) =
      some [.err .truncatedEnvelope] := by decide -- V66

/-! ## Layer L2 -/

theorem test_connect :
    seen (exec .connect { disc 0 with connectIn := [.opened] }) =
      some ([.ok .nothing], .connected, 0, [.connect .opened]) := by decide -- T1
theorem test_connect_twice : refusal (exec .connect (conn 0)) = some .connectWhileConnected := by decide -- T21
theorem test_close : seen (exec .close (conn 7)) = some ([.ok .nothing], .disconnected, 7, [.close]) := by
  decide -- T3
theorem test_close_twice :
    seen (exec .close (disc 7)) = some ([.err .notConnected], .disconnected, 7, []) := by decide -- T4
theorem test_send :
    seen (exec (.send ⟨3, [0x00, 0x6B, 0x00, 0x03]⟩)
      { answering (disc 0)
          [0x00, 0x01, 0x00, 0x00, 0x00, 0x09, 0x01, 0x03, 0x06, 0x02, 0x2B, 0x00, 0x00, 0x00, 0x64] with
        connectIn := [.opened] }) =
      some ([.ok (.pdu ⟨3, [0x06, 0x02, 0x2B, 0x00, 0x00, 0x00, 0x64]⟩)], .connected, 1,
        [.connect .opened,
         .write [0x00, 0x01, 0x00, 0x00, 0x00, 0x06, 0x01, 0x03, 0x00, 0x6B, 0x00, 0x03] .written,
         .read (.data
          [0x00, 0x01, 0x00, 0x00, 0x00, 0x09, 0x01, 0x03, 0x06, 0x02, 0x2B, 0x00, 0x00, 0x00, 0x64])]) := by
  decide -- T5
theorem test_send_wrap :
    seen (exec (.send ⟨7, []⟩)
      (answering (conn 65535) [0x00, 0x00, 0x00, 0x00, 0x00, 0x03, 0x01, 0x07, 0x00])) =
      some ([.ok (.pdu ⟨7, [0x00]⟩)], .connected, 0,
        [.write [0x00, 0x00, 0x00, 0x00, 0x00, 0x02, 0x01, 0x07] .written,
         .read (.data [0x00, 0x00, 0x00, 0x00, 0x00, 0x03, 0x01, 0x07, 0x00])]) := by decide -- T17
/-- An answer that comes late: the first step leaves the read in flight, a later one ends it (T20, R149). -/
theorem test_rptid_waits :
    (match exec .rptid { conn 4 with writeIn := [.written] } with
      | .next t => results (step { t with readIn := [.fails [] false] })
      | _ => none) = some [.err .readError] := by decide

/-! ## Layer L3: the request PDU, and the result of a response PDU -/

theorem test_rdcoil :
    sentPdu (exec (.rdcoil 19 19) (replying [0x01, 0x03, 0xCD, 0x6B, 0x05])) =
      some [0x01, 0x00, 0x13, 0x00, 0x13] ∧
    results (exec (.rdcoil 19 19) (replying [0x01, 0x03, 0xCD, 0x6B, 0x05])) =
      some [.ok (.bools [true, false, true, true, false, false, true, true, true, true, false, true, false,
        true, true, false, true, false, true])] := by decide -- O1
theorem test_rdcoil_short :
    refusal (exec (.rdcoil 19 19) (replying [0x01, 0x03, 0xCD, 0x6B])) = some .responseTooShort := by
  decide -- O2
theorem test_rddi :
    sentPdu (exec (.rddi 196 22) (replying [0x02, 0x03, 0xAC, 0xDB, 0x35])) =
      some [0x02, 0x00, 0xC4, 0x00, 0x16] ∧
    results (exec (.rddi 196 22) (replying [0x02, 0x03, 0xAC, 0xDB, 0x35])) =
      some [.ok (.bools [false, false, true, true, false, true, false, true, true, true, false, true, true,
        false, true, true, true, false, true, false, true, true])] := by decide -- O5
theorem test_rdhr :
    sentPdu (exec (.rdhr 107 3) (replying [0x03, 0x06, 0x02, 0x2B, 0x00, 0x00, 0x00, 0x64])) =
      some [0x03, 0x00, 0x6B, 0x00, 0x03] ∧
    results (exec (.rdhr 107 3) (replying [0x03, 0x06, 0x02, 0x2B, 0x00, 0x00, 0x00, 0x64])) =
      some [.ok (.words [555, 0, 100])] := by decide -- O6
theorem test_rdhr_exception :
    results (exec (.rdhr 65535 1) (replying [0x83, 0x02])) = some [.err (.protocolException 0x83 2)] := by
  decide -- O38
theorem test_rdir :
    sentPdu (exec (.rdir 8 1) (replying [0x04, 0x02, 0x00, 0x0A])) = some [0x04, 0x00, 0x08, 0x00, 0x01] ∧
    results (exec (.rdir 8 1) (replying [0x04, 0x02, 0x00, 0x0A])) = some [.ok (.words [10])] := by
  decide -- O7c
theorem test_wrcoil :
    sentPdu (exec (.wrcoil 172 true) (replying [0x05, 0x00, 0xAC, 0xFF, 0x00])) =
      some [0x05, 0x00, 0xAC, 0xFF, 0x00] ∧
    results (exec (.wrcoil 172 true) (replying [0x05, 0x00, 0xAC, 0xFF, 0x00])) = some [.ok .nothing] := by
  decide -- O7d
theorem test_wrcoil_false :
    sentPdu (exec (.wrcoil 172 false) (replying [0x05, 0x12, 0x34])) = some [0x05, 0x00, 0xAC, 0x00, 0x00] ∧
    results (exec (.wrcoil 172 false) (replying [0x05, 0x12, 0x34])) = some [.ok .nothing] := by
  decide -- O7e
theorem test_wrreg :
    sentPdu (exec (.wrreg 1 3) (replying [0x06, 0x00, 0x01, 0x00, 0x03])) =
      some [0x06, 0x00, 0x01, 0x00, 0x03] ∧
    results (exec (.wrreg 1 3) (replying [0x06, 0x00, 0x01, 0x00, 0x03])) = some [.ok .nothing] := by
  decide -- O7f
theorem test_rdexst :
    sentPdu (exec .rdexst (replying [0x07, 0x6D, 0xFF, 0xFF])) = some [0x07] ∧
    results (exec .rdexst (replying [0x07, 0x6D, 0xFF, 0xFF])) =
      some [.ok (.bools [true, false, true, true, false, true, true, false])] := by decide -- O26
theorem test_diag :
    sentPdu (exec (.diag 0 [0xA537]) (replying [0x08, 0x00, 0x00, 0xA5, 0x37])) =
      some [0x08, 0x00, 0x00, 0xA5, 0x37] ∧
    results (exec (.diag 0 [0xA537]) (replying [0x08, 0x00, 0x00, 0xA5, 0x37])) =
      some [.ok (.words [42295])] := by decide -- O28
theorem test_gcec :
    sentPdu (exec .gcec (replying [0x0B, 0xFF, 0xFF, 0x01, 0x08])) = some [0x0B] ∧
    results (exec .gcec (replying [0x0B, 0xFF, 0xFF, 0x01, 0x08])) = some [.ok (.commEvents true 264)] := by
  decide -- O31
theorem test_gcec_three_bytes :
    results (exec .gcec (replying [0x0B, 0xFF, 0xFF, 0x07])) = some [.ok (.commEvents true 7)] := by
  decide -- O34
theorem test_wrmcoil :
    sentPdu (exec (.wrmcoil 19 [true, false, true, true, false, false, true, true, true, false])
      (replying [0x0F, 0xFF, 0xFF, 0x00, 0x0A])) = some [0x0F, 0x00, 0x13, 0x00, 0x0A, 0x02, 0xCD, 0x01] ∧
    results (exec (.wrmcoil 19 [true, false, true, true, false, false, true, true, true, false])
      (replying [0x0F, 0xFF, 0xFF, 0x00, 0x0A])) = some [.ok .nothing] := by decide -- O9
theorem test_wrmcoil_count :
    results (exec (.wrmcoil 19 [true, false, true, true, false, false, true, true, true, false])
      (replying [0x0F, 0x00, 0x13, 0x00, 0x09])) = some [.err .unexpectedCoilCount] := by decide -- O8
theorem test_wrmreg :
    sentPdu (exec (.wrmreg 1 [0x000A, 0x0102]) (replying [0x10, 0x00, 0x01, 0x00, 0x07])) =
      some [0x10, 0x00, 0x01, 0x00, 0x02, 0x04, 0x00, 0x0A, 0x01, 0x02] ∧
    results (exec (.wrmreg 1 [0x000A, 0x0102]) (replying [0x10, 0x00, 0x01, 0x00, 0x07])) =
      some [.ok .nothing] := by decide -- O14
theorem test_rptid :
    sentPdu (exec .rptid (replying [0x11, 0x02, 0x11, 0xFF, 0x61, 0x62])) = some [0x11] ∧
    results (exec .rptid (replying [0x11, 0x02, 0x11, 0xFF, 0x61, 0x62])) =
      some [.ok (.bytes [0x02, 0x11, 0xFF, 0x61, 0x62])] := by decide -- O36
theorem test_maskwr :
    sentPdu (exec (.maskwr 4 0x00F2 0x0025) (replying [0x16, 0x00, 0x04, 0x00, 0xF2, 0x00, 0x25])) =
      some [0x16, 0x00, 0x04, 0x00, 0xF2, 0x00, 0x25] ∧
    results (exec (.maskwr 4 0x00F2 0x0025) (replying [0x16, 0x00, 0x04, 0x00, 0xF2, 0x00, 0x25])) =
      some [.ok .nothing] := by decide -- O21
theorem test_rwmreg :
    sentPdu (exec (.rwmreg 3 6 14 [255, 255, 255]) (replying [0x17, 0x04, 0x00, 0xFE, 0x0A, 0xCD])) =
      some [0x17, 0x00, 0x03, 0x00, 0x06, 0x00, 0x0E, 0x00, 0x03, 0x06, 0x00, 0xFF, 0x00, 0xFF, 0x00, 0xFF] ∧
    results (exec (.rwmreg 3 6 14 [255, 255, 255]) (replying [0x17, 0x04, 0x00, 0xFE, 0x0A, 0xCD])) =
      some [.ok (.words [254, 2765])] := by decide -- O17, the first four data bytes
theorem test_rwmreg_zero_count :
    results (exec (.rwmreg 3 6 14 [255, 255, 255]) (replying [0x17, 0x00, 0x12, 0x34])) =
      some [.ok (.words [])] := by decide -- O18
theorem test_rdfifo :
    sentPdu (exec (.rdfifo 0x04DE) (replying [0x18, 0x00, 0x06, 0x00, 0x02, 0x01, 0xB8, 0x12, 0x84])) =
      some [0x18, 0x04, 0xDE] ∧
    results (exec (.rdfifo 0x04DE) (replying [0x18, 0x00, 0x06, 0x00, 0x02, 0x01, 0xB8, 0x12, 0x84])) =
      some [.ok (.words [440, 4740])] := by decide -- O22
theorem test_exclbl :
    results (exec (.exclbl 11) (disc 0)) =
      some [.ok (.category .gatewayTargetDeviceFailedToRespond)] := by decide -- section 2.6
theorem test_exclbl_unknown :
    results (exec (.exclbl 7) (disc 0)) = some [.ok (.category .unknownException)] := by decide -- section 2.6

/-! ## Error priority (R214) -/

theorem test_mismatch_before_exception :
    results (exec .rdexst (answering (conn 4) [0x00, 0x01, 0x00, 0x00, 0x00, 0x03, 0x01, 0x87, 0x01])) =
      some [.err .transactionMismatch] := by decide -- E3
theorem test_short_before_mismatch :
    results (exec (.rdfifo 0x04DE) (answering (conn 4) [0x00, 0x01, 0x00, 0x00, 0x00])) =
      some [.err .truncatedEnvelope] := by decide -- E4

/-! ## Witnesses: for each statement with hypotheses, a state and operands that meet them, clause by clause, at
the ends of their ranges -/

/-- The peer's answer to the first request on the open session `replying` is a reply to any request. -/
theorem replying_replied (p : List Byte) (f : Byte) (payload : List Byte) (h : payload.length ≤ 252) :
    ∃ t, Replied (replying (f :: payload)) p f payload t := by
  refine ⟨_, 0, 0, 0, BitVec.ofNat 8 (payload.length + 1 + 1), 1, replying (f :: payload), _, .inl ⟨rfl, rfl⟩,
    ⟨[], rfl, rfl⟩, ⟨responseEnvelope (f :: payload), 260, true, [], rfl, ?_, by simp, rfl⟩⟩
  have hl : (responseEnvelope (f :: payload)).length ≤ 260 := by simp [responseEnvelope]; omega
  have ht : [] ++ responseEnvelope (f :: payload) = responseEnvelope (f :: payload) := rfl
  have hb : be16 ((replying (f :: payload)).txn + 1) = [0, 1] := by
    show be16 (0 + 1) = [0, 1]
    decide
  rw [show min 260 260 = 260 from rfl, hb]
  exact ((congrArg (List.take 260) ht).trans (List.take_of_length_le hl)).symm

theorem replicate_le {α : Type} (n m : Nat) (x : α) (h : n ≤ m) : (List.replicate n x).length ≤ m := by
  rw [List.length_replicate]; exact h

theorem lt_replicate {α : Type} (n m : Nat) (x : α) (h : m < n) : m < (List.replicate n x).length := by
  rw [List.length_replicate]; exact h

theorem witness_WordsToBytesBigEndian : ([1234, 10] : List Word)[1]? = some 10 := by decide

theorem witness_BytesToWordsWithOddTail :
    (([0x04, 0xD2, 0x0A] : List Byte)[2 * 0]? = some 0x04 ∧
      ([0x04, 0xD2, 0x0A] : List Byte)[2 * 0 + 1]? = some 0xD2) ∧
    (([0x04, 0xD2, 0x0A] : List Byte).length = 2 * 1 + 1 ∧
      ([0x04, 0xD2, 0x0A] : List Byte)[2 * 1]? = some 0x0A) := by decide

theorem witness_PackBitsLeastSignificantFirst :
    results (exec (.packb (List.replicate 9 true)) (disc 0)) = some [.ok (.bytes [0xFF, 0x01])] ∧
    ([0xFF, 0x01] : List Byte)[0]? = some 0xFF ∧ 7 < 8 ∧ ([0xFF, 0x01] : List Byte)[1]? = some 0x01 ∧ 0 < 8 := by
  decide

theorem witness_UnpackBitsOrRefuse :
    (8 ≤ 8 * ([0xA5] : List Byte).length ∧ 7 < 8 ∧ ([0xA5] : List Byte)[7 / 8]? = some 0xA5) ∧
    8 * ([0xA5] : List Byte).length < 9 := by decide

theorem witness_ConverterLaws :
    (([0x04, 0xD2, 0x0A] : List Byte) = [0x04, 0xD2] ++ [0x0A] ∧
      ([0x04, 0xD2, 0x0A] : List Byte).length % 2 = 1) ∧
    (16 ≤ 8 * ([0xCD, 0x01] : List Byte).length) ∧
    (10 ≤ 8 * ([0xCD, 0x01] : List Byte).length ∧ 10 % 8 ≠ 0 ∧
      ([0xCD, 0x01] : List Byte).getLast? = some 0x01 ∧ 10 % 8 ≤ 2) := by decide

/-- Also for the two encoders' clauses in EnvelopeEncodeLayout. -/
theorem witness_PduEncodeChecksInOrder :
    ((0 : Byte) = 0) ∧
    ((1 : Byte) ≠ 0 ∧ 252 < (List.replicate 253 (0 : Byte)).length) ∧
    ((255 : Byte) ≠ 0 ∧ (List.replicate 252 (0 : Byte)).length ≤ 252) :=
  ⟨rfl, ⟨by decide, lt_replicate 253 252 _ (by omega)⟩, by decide, replicate_le 252 252 _ (by omega)⟩

theorem witness_PduRoundTrips : (1 : Byte) ≠ 0 ∧ (List.replicate 252 (0 : Byte)).length ≤ 252 :=
  ⟨by decide, replicate_le 252 252 _ (by omega)⟩

theorem witness_HeaderDecodeFirstSeven : ([0, 15, 0, 5, 0, 3] : List Byte).length < 7 := by decide

theorem witness_EnvelopeEncodeLayout :
    ((0 : Byte) = 0) ∧
    ((1 : Byte) ≠ 0 ∧ 252 < (List.replicate 253 (0 : Byte)).length) ∧
    ((1 : Byte) ≠ 0 ∧ (List.replicate 252 (0 : Byte)).length ≤ 252) :=
  ⟨rfl, ⟨by decide, lt_replicate 253 252 _ (by omega)⟩, by decide, replicate_le 252 252 _ (by omega)⟩

theorem witness_EnvelopeDecodeTakesAllTheRest : ([0, 15, 0, 5, 0, 3, 9] : List Byte).length < 8 := by decide

theorem witness_HeaderAndEnvelopeRoundTrips :
    7 ≤ ([0, 15, 0, 5, 0, 3, 9] : List Byte).length ∧ (17 : Byte) ≠ 0 ∧ ([] : List Byte).length ≤ 252 := by decide

theorem witness_StagesTouchNoState :
    isStage (.w2b [1]) = true ∧ isStage (.b2w [1]) = true ∧ isStage (.packb [true]) = true ∧
    isStage (.unpkb [0xFF] 9) = true ∧ isStage (.pduenc ⟨1, []⟩) = true ∧ isStage (.pdudec []) = true ∧
    isStage (.hdrenc ⟨15, 5, 3, 9⟩) = true ∧ isStage (.hdrdec []) = true ∧
    isStage (.envenc ⟨15, 5, 3, 9⟩ ⟨4, [2]⟩) = true ∧ isStage (.envdec []) = true ∧
    isStage (.exclbl 2) = true := by decide

theorem witness_ConnectOutcomes :
    (conn 0).link = .connected ∧
    ((disc 0).link = .disconnected ∧ { disc 0 with connectIn := [.opened] }.connectIn = .opened :: []) ∧
    { disc 0 with connectIn := [.failed, .opened] }.connectIn = .failed :: [.opened] ∧
    (disc 0).connectIn = [] := by decide

theorem witness_CloseOutcomes : (disc 7).link = .disconnected ∧ (conn 7).link = .connected := by decide

theorem witness_EncodeErrorsBeforeAnyIO :
    (requestPdu (.send ⟨0, [1]⟩) = some ⟨0, [1]⟩ ∧ (⟨0, [1]⟩ : Pdu).function = 0) ∧
    (∃ pdu, requestPdu (.wrmreg 0 (List.replicate 124 0)) = some pdu ∧ pdu.function ≠ 0 ∧
      252 < pdu.payload.length) := by
  refine ⟨by decide, _, rfl, by decide, ?_⟩
  simp only [List.length_append, wordsToBytes_length, be16_length, List.length_replicate, List.length_singleton]
  omega

theorem witness_ArrayLimits :
    (List.replicate 123 (0 : Word)).length ≤ 123 ∧ (List.replicate 1976 true).length ≤ 1976 :=
  ⟨replicate_le _ _ _ (by omega), replicate_le _ _ _ (by omega)⟩

/-- A disconnected session on which the link will open. -/
def openable : State := { disc 4 with connectIn := [.opened] }

/-- The session that step 2 leaves from `openable`. -/
def opened : State := { conn 4 with trace := [.connect .opened] }

theorem openable_ready (s : State) (writeIn : List WriteAnswer) (readIn : List ReadDraw)
    (hs : s = { openable with writeIn := writeIn, readIn := readIn }) :
    LinkReady s { opened with writeIn := writeIn, readIn := readIn } := by
  subst hs
  exact .inr ⟨rfl, [], rfl, rfl⟩

theorem witness_ImplicitConnectFailure :
    requestPdu .rptid = some ⟨17, []⟩ ∧ (17 : Byte) ≠ 0 ∧ ([] : List Byte).length ≤ 252 ∧
    (disc 4).link = .disconnected ∧ { disc 4 with connectIn := [.failed] }.connectIn = .failed :: [] := by decide

theorem witness_WriteFailureOutcome :
    (requestPdu .rptid = some ⟨17, []⟩ ∧ (17 : Byte) ≠ 0 ∧ ([] : List Byte).length ≤ 252) ∧
    LinkReady { openable with writeIn := [.failed false 3] } { opened with writeIn := [.failed false 3] } ∧
    LinkReady { conn 4 with writeIn := [.failed true 0] } { conn 4 with writeIn := [.failed true 0] } :=
  ⟨by decide, openable_ready _ _ _ rfl, .inl ⟨rfl, rfl⟩⟩

theorem witness_ReadFailureOutcome :
    (requestPdu .rptid = some ⟨17, []⟩ ∧ (17 : Byte) ≠ 0 ∧ ([] : List Byte).length ≤ 252) ∧
    (∃ s1, LinkReady { conn 4 with writeIn := [.written], readIn := [.fails [7] false] }
        { conn 4 with writeIn := [.written], readIn := [.fails [7] false] } ∧
      Wrote { conn 4 with writeIn := [.written], readIn := [.fails [7] false] } (17 :: []) s1 ∧
      s1.readIn = .fails [7] false :: []) ∧
    (∃ s1, LinkReady { conn 4 with writeIn := [.written], readIn := [.returns [] 260 true] }
        { conn 4 with writeIn := [.written], readIn := [.returns [] 260 true] } ∧
      Wrote { conn 4 with writeIn := [.written], readIn := [.returns [] 260 true] } (17 :: []) s1 ∧
      s1.readIn = .returns [] 260 true :: [] ∧ s1.rxQueue ++ [] = []) ∧
    (∃ s1, Wrote { conn 4 with writeIn := [.written], readIn := [.returns [7] 0 false] } (17 :: []) s1 ∧
      s1.readIn = .returns [7] 0 false :: [] ∧ 0 = 0) :=
  ⟨by decide, ⟨_, .inl ⟨rfl, rfl⟩, ⟨[], rfl, rfl⟩, rfl⟩, ⟨_, .inl ⟨rfl, rfl⟩, ⟨[], rfl, rfl⟩, rfl, rfl⟩,
    ⟨_, ⟨[], rfl, rfl⟩, rfl, rfl⟩⟩

theorem witness_ShortReadIsTruncatedEnvelope :
    (requestPdu .rdexst = some ⟨7, []⟩ ∧ (7 : Byte) ≠ 0 ∧ ([] : List Byte).length ≤ 252) ∧
    (∃ t, Exchanged (answering (conn 4) [0x00, 0x05, 0x00, 0x00, 0x00, 0x03, 0x01]) (7 :: [])
      [0x00, 0x05, 0x00, 0x00, 0x00, 0x03, 0x01] t) ∧
    ([0x00, 0x05, 0x00, 0x00, 0x00, 0x03, 0x01] : List Byte).length < 8 :=
  ⟨by decide, ⟨_, _, _, .inl ⟨rfl, rfl⟩, ⟨[], rfl, rfl⟩, ⟨_, 260, true, [], rfl, rfl, by decide, rfl⟩⟩, by decide⟩

theorem witness_OtherIdIsTransactionMismatch :
    (requestPdu .rdexst = some ⟨7, []⟩ ∧ (7 : Byte) ≠ 0 ∧ ([] : List Byte).length ≤ 252) ∧
    (∃ t, Exchanged (answering (conn 4) [0x00, 0x04, 0x00, 0x00, 0x00, 0x03, 0x01, 0x87, 0x01]) (7 :: [])
      (0x00 :: 0x04 :: 0x00 :: 0x00 :: 0x00 :: 0x03 :: 0x01 :: 0x87 :: [0x01]) t) ∧
    256 * (0x00 : Byte).toNat + (0x04 : Byte).toNat ≠ ((conn 4).txn + 1).toNat :=
  ⟨by decide, ⟨_, _, _, .inl ⟨rfl, rfl⟩, ⟨[], rfl, rfl⟩, ⟨_, 260, true, [], rfl, rfl, by decide, rfl⟩⟩, by decide⟩

theorem witness_SendReturnsTheResponsePdu :
    (255 : Byte) ≠ 0 ∧ ([1] : List Byte).length ≤ 252 ∧
    ∃ t, Replied (replying [0x87, 0x01]) (255 :: [1]) 0x87 [0x01] t :=
  ⟨by decide, by decide, replying_replied _ _ _ (by decide)⟩

/-- One state for each row of the table: each ends with nothing in flight. -/
theorem witness_OutcomeTable :
    (∃ t, exec (.send ⟨0, []⟩) (disc 4) = .next t ∧ t.inFlight = none) ∧
    (∃ t, exec (.send ⟨1, List.replicate 253 0⟩) (conn 4) = .next t ∧ t.inFlight = none) ∧
    (∃ t, exec .rptid { disc 4 with connectIn := [.failed] } = .next t ∧ t.inFlight = none) ∧
    (∃ t, exec .rptid { openable with writeIn := [.failed true 2] } = .next t ∧ t.inFlight = none) ∧
    (∃ t, exec .rptid { conn 4 with writeIn := [.written], readIn := [.fails [] false] } = .next t ∧
      t.inFlight = none) ∧
    (∃ t, exec .rptid (answering (conn 4) [0x00, 0x05]) = .next t ∧ t.inFlight = none) ∧
    (∃ t, exec .rptid (replying [0x11, 0x02]) = .next t ∧ t.inFlight = none) :=
  ⟨⟨_, rfl, rfl⟩,
    ⟨answered (conn 4) (.err .payloadTooLarge), (by
      simp only [exec, execSEND, exchange, pduEncode_tooLong (show (1 : Byte) ≠ 0 by decide)
        (lt_replicate 253 252 (0 : Byte) (by omega)), raise_eq]), rfl⟩,
    ⟨_, rfl, rfl⟩, ⟨_, rfl, rfl⟩, ⟨_, rfl, rfl⟩, ⟨_, rfl, rfl⟩, ⟨_, rfl, rfl⟩⟩

theorem witness_WhatThePeerHasReceived :
    requestPdu .rptid = some ⟨17, []⟩ ∧
    ∃ t, exec .rptid { openable with writeIn := [.failed true 2] } = .next t ∧ t.inFlight = none :=
  ⟨by decide, _, rfl, rfl⟩

theorem witness_UnansweredReadHangs :
    (requestPdu .rdexst = some ⟨7, []⟩ ∧ (7 : Byte) ≠ 0 ∧ ([] : List Byte).length ≤ 252) ∧
    ((disc 4).link = .disconnected ∧ (disc 4).connectIn = []) ∧
    (LinkReady { openable with writeIn := [] } { opened with writeIn := [] } ∧
      { opened with writeIn := [] }.writeIn = []) ∧
    (∃ s1, LinkReady { conn 4 with writeIn := [.written] } { conn 4 with writeIn := [.written] } ∧
      Wrote { conn 4 with writeIn := [.written] } (7 :: []) s1 ∧ s1.readIn = []) ∧
    (conn 4).port = none ∧ (disc 4).port = none ∧ openable.port = none :=
  ⟨by decide, by decide, ⟨openable_ready _ [] [] rfl, rfl⟩, ⟨_, .inl ⟨rfl, rfl⟩, ⟨[], rfl, rfl⟩, rfl⟩, rfl, rfl, rfl⟩

theorem witness_WaitingIsTransparent :
    openable.port = none ∧
    (∃ t, exec .connect { openable with connectIn := [] } = .next t ∧ t.inFlight ≠ none) ∧
    (∃ t, exec .rptid { openable with writeIn := [] } = .next t ∧ t.inFlight ≠ none) ∧
    (∃ t, exec .rptid { answering (conn 4) [0x00, 0x05] with readIn := [] } = .next t ∧ t.inFlight ≠ none) :=
  ⟨rfl, ⟨_, rfl, by decide⟩, ⟨_, rfl, by decide⟩, ⟨_, rfl, by decide⟩⟩

theorem witness_ReadRemovesWhatItReturns :
    (∃ t, linkRead 260 { conn 4 with readIn := [.returns [7, 8] 1 true] } = some (.data [7], t)) ∧
    (∃ t, linkRead 260 { conn 4 with readIn := [.returns [7, 8] 0 false] } = some (.empty false, t)) ∧
    (∃ t, linkRead 260 { conn 4 with readIn := [.fails [7, 8] true] } = some (.failed true, t)) :=
  ⟨⟨_, rfl⟩, ⟨_, rfl⟩, ⟨_, rfl⟩⟩

theorem witness_OperationIsSendThenDecode :
    (requestPdu .rdexst = some ⟨7, []⟩ ∧ responseFormat .rdexst = some .pe) ∧
    (∃ t, exec (.send ⟨7, []⟩) (replying [0x07, 0x6D]) = .next t ∧ t.inFlight = none) ∧
    (∃ t, exec (.send ⟨7, []⟩) (answering (conn 4) [0x00, 0x05]) = .next t ∧ t.inFlight = none) :=
  ⟨⟨rfl, rfl⟩, ⟨_, rfl, rfl⟩, ⟨_, rfl, rfl⟩⟩

theorem witness_ExceptionResponseIsProtocolException :
    (requestPdu .rdexst = some ⟨7, []⟩ ∧ responseFormat .rdexst = some .pe ∧ ([] : List Byte).length ≤ 252) ∧
    (∃ t, Replied (replying [0x87]) (7 :: []) 0x87 [] t) ∧
    (∃ t, Replied (replying [0x87, 0x01]) (7 :: []) 0x87 [0x01] t) ∧
    (0x87 : Byte).toNat = (7 : Byte).toNat + 0x80 :=
  ⟨⟨rfl, rfl, by decide⟩, replying_replied _ _ _ (by decide), replying_replied _ _ _ (by decide), by decide⟩

theorem witness_ReadBitArrays :
    (∃ t, Replied (replying [0x01, 0x01, 0xFF]) (0x01 :: (be16 0 ++ be16 8)) 0x01 (0x01 :: [0xFF]) t) ∧
    ((0x01 : Byte) ≠ 0x81 ∧ (8 : Word).toNat ≤ 8 * ([0xFF] : List Byte).length) ∧
    (∃ t, Replied (replying [0x01, 0x01, 0xFF]) (0x01 :: (be16 0 ++ be16 9)) 0x01 [0x01, 0xFF] t) ∧
    8 * (([0x01, 0xFF] : List Byte).length - 1) < (9 : Word).toNat ∧
    (∃ t, Replied (replying [0x02, 0x01, 0xFF]) (0x02 :: (be16 0 ++ be16 8)) 0x02 (0x01 :: [0xFF]) t) ∧
    (0x02 : Byte) ≠ 0x82 ∧
    (∃ t, Replied (replying [0x02]) (0x02 :: (be16 0 ++ be16 0)) 0x02 [] t) :=
  ⟨replying_replied _ _ _ (by decide), by decide, replying_replied _ _ _ (by decide), by decide,
    replying_replied _ _ _ (by decide), by decide, replying_replied _ _ _ (by decide)⟩

theorem witness_ReadWordArrays :
    (∃ t, Replied (replying [0x03, 0x00]) (0x03 :: (be16 107 ++ be16 3)) 0x03 (0x00 :: []) t) ∧
    (∃ t, Replied (replying [0x03]) (0x03 :: (be16 107 ++ be16 3)) 0x03 [] t) ∧ (0x03 : Byte) ≠ 0x83 ∧
    (∃ t, Replied (replying [0x04, 0x02, 0x00, 0x0A]) (0x04 :: (be16 8 ++ be16 1)) 0x04 (0x02 :: [0x00, 0x0A]) t) ∧
    (∃ t, Replied (replying [0x04]) (0x04 :: (be16 8 ++ be16 1)) 0x04 [] t) ∧ (0x04 : Byte) ≠ 0x84 :=
  ⟨replying_replied _ _ _ (by decide), replying_replied _ _ _ (by decide), by decide,
    replying_replied _ _ _ (by decide), replying_replied _ _ _ (by decide), by decide⟩

theorem witness_WritesIgnoreTheResponse :
    (∃ t, Replied (replying [0x05]) (0x05 :: (be16 172 ++ if true then [0xFF, 0x00] else [0x00, 0x00])) 0x05 [] t) ∧
    (0x05 : Byte) ≠ 0x85 ∧
    (∃ t, Replied (replying [0x06]) (0x06 :: (be16 1 ++ be16 3)) 0x06 [] t) ∧ (0x06 : Byte) ≠ 0x86 ∧
    (List.replicate 123 (0 : Word)).length ≤ 123 ∧
    (∃ t, Replied (replying [0x10]) (0x10 :: (be16 1 ++
      be16 (BitVec.ofNat 16 (List.replicate 123 (0 : Word)).length) ++
      [BitVec.ofNat 8 (2 * (List.replicate 123 (0 : Word)).length)] ++
      wordsToBytes (List.replicate 123 (0 : Word)))) 0x10 [] t) ∧
    (0x10 : Byte) ≠ 0x90 ∧
    (∃ t, Replied (replying [0x16]) (0x16 :: (be16 4 ++ be16 0xF2 ++ be16 0x25)) 0x16 [] t) ∧
    (0x16 : Byte) ≠ 0x96 :=
  ⟨replying_replied _ _ _ (by decide), by decide, replying_replied _ _ _ (by decide), by decide, replicate_le _ _ _ (by omega),
    replying_replied _ _ _ (by decide), by decide, replying_replied _ _ _ (by decide), by decide⟩

theorem witness_WriteCoilsChecksTheEchoedCount :
    (List.replicate 1976 true).length ≤ 1976 ∧ (0x0F : Byte) ≠ 0x8F ∧
    (∃ t, Replied (replying [0x0F, 0x00, 0x13, 0x00]) (0x0F :: (be16 19 ++
      be16 (BitVec.ofNat 16 ([true] : List Bool).length) ++
      [BitVec.ofNat 8 ((([true] : List Bool).length + 7) / 8)] ++ packBits [true])) 0x0F [0x00, 0x13, 0x00] t) ∧
    ([0x00, 0x13, 0x00] : List Byte).length < 4 ∧
    (∃ t, Replied (replying [0x0F, 0x00, 0x13, 0x00, 0x01]) (0x0F :: (be16 19 ++
      be16 (BitVec.ofNat 16 ([true] : List Bool).length) ++
      [BitVec.ofNat 8 ((([true] : List Bool).length + 7) / 8)] ++ packBits [true])) 0x0F
      (0x00 :: 0x13 :: 0x00 :: 0x01 :: []) t) ∧
    256 * (0x00 : Byte).toNat + (0x01 : Byte).toNat = ([true] : List Bool).length ∧
    256 * (0x00 : Byte).toNat + (0x02 : Byte).toNat ≠ ([true] : List Bool).length :=
  ⟨replicate_le _ _ _ (by omega), by decide, replying_replied _ _ _ (by decide), by decide, replying_replied _ _ _ (by decide),
    by decide, by decide⟩

theorem witness_ReadWriteRegisters :
    (List.replicate 121 (0 : Word)).length ≤ 121 ∧ (0x17 : Byte) ≠ 0x97 ∧
    (∃ t, Replied (replying [0x17]) (0x17 :: (be16 3 ++ be16 6 ++ be16 14 ++
      be16 (BitVec.ofNat 16 ([255] : List Word).length) ++ [BitVec.ofNat 8 (2 * ([255] : List Word).length)] ++
      wordsToBytes [255])) 0x17 [] t) ∧
    (∃ t, Replied (replying [0x17, 0x00, 0x12]) (0x17 :: (be16 3 ++ be16 6 ++ be16 14 ++
      be16 (BitVec.ofNat 16 ([255] : List Word).length) ++ [BitVec.ofNat 8 (2 * ([255] : List Word).length)] ++
      wordsToBytes [255])) 0x17 (0x00 :: [0x12]) t) :=
  ⟨replicate_le _ _ _ (by omega), by decide, replying_replied _ _ _ (by decide), replying_replied _ _ _ (by decide)⟩

theorem witness_FifoAndDiagnostics :
    (∃ t, Replied (replying [0x18, 0x00, 0x02, 0x00]) (0x18 :: be16 0x04DE) 0x18 [0x00, 0x02, 0x00] t) ∧
    ([0x00, 0x02, 0x00] : List Byte).length < 4 ∧
    (∃ t, Replied (replying [0x18, 0x00, 0x02, 0x00, 0x00]) (0x18 :: be16 0x04DE) 0x18 [0x00, 0x02, 0x00, 0x00] t) ∧
    4 ≤ ([0x00, 0x02, 0x00, 0x00] : List Byte).length ∧ (0x18 : Byte) ≠ 0x98 ∧
    (List.replicate 125 (0 : Word)).length ≤ 125 ∧ (0x08 : Byte) ≠ 0x88 ∧
    (∃ t, Replied (replying [0x08, 0x00]) (0x08 :: (be16 1 ++ wordsToBytes [])) 0x08 [0x00] t) ∧
    ([0x00] : List Byte).length < 2 ∧
    (∃ t, Replied (replying [0x08, 0x00, 0x01]) (0x08 :: (be16 1 ++ wordsToBytes [])) 0x08 [0x00, 0x01] t) ∧
    2 ≤ ([0x00, 0x01] : List Byte).length :=
  ⟨replying_replied _ _ _ (by decide), by decide, replying_replied _ _ _ (by decide), by decide, by decide,
    replicate_le _ _ _ (by omega), by decide, replying_replied _ _ _ (by decide), by decide, replying_replied _ _ _ (by decide),
    by decide⟩

theorem witness_StatusReads :
    (∃ t, Replied (replying [0x07]) [0x07] 0x07 [] t) ∧
    (∃ t, Replied (replying [0x07, 0x6D]) [0x07] 0x07 (0x6D :: []) t) ∧ (0x07 : Byte) ≠ 0x87 ∧
    (∃ t, Replied (replying [0x0B, 0xFF, 0xFF]) [0x0B] 0x0B [0xFF, 0xFF] t) ∧
    ([0xFF, 0xFF] : List Byte).length < 3 ∧
    (∃ t, Replied (replying [0x0B, 0xFF, 0xFF, 0x07]) [0x0B] 0x0B [0xFF, 0xFF, 0x07] t) ∧
    (∃ t, Replied (replying [0x0B, 0x00, 0x00, 0x01, 0x08]) [0x0B] 0x0B (0x00 :: 0x00 :: 0x01 :: 0x08 :: []) t) ∧
    (0x0B : Byte) ≠ 0x8B ∧
    (∃ t, Replied (replying [0x11]) [0x11] 0x11 [] t) ∧ (0x11 : Byte) ≠ 0x91 :=
  ⟨replying_replied _ _ _ (by decide), replying_replied _ _ _ (by decide), by decide,
    replying_replied _ _ _ (by decide), by decide, replying_replied _ _ _ (by decide),
    replying_replied _ _ _ (by decide), by decide, replying_replied _ _ _ (by decide), by decide⟩

theorem witness_ExceptionCategoryTable :
    (1 : Byte).toNat = 1 ∧ (11 : Byte).toNat = 11 ∧
    (0 : Byte).toNat ∉ [1, 2, 3, 4, 5, 6, 8, 10, 11] ∧ (7 : Byte).toNat ∉ [1, 2, 3, 4, 5, 6, 8, 10, 11] ∧
    (9 : Byte).toNat ∉ [1, 2, 3, 4, 5, 6, 8, 10, 11] ∧ (12 : Byte).toNat ∉ [1, 2, 3, 4, 5, 6, 8, 10, 11] := by
  decide

theorem witness_StatusNumbersTellTheKind :
    Result.status (.err (.protocolException 0x83 1)) = Result.status (.err (.protocolException 0x84 2)) := by
  decide

theorem witness_ResetStep :
    { conn 7 with port := some .reset }.port = some .reset ∧ (conn 7).inFlight = none ∧
    { conn 7 with port := some .reset, inFlight := some (.reading .send 7) }.inFlight ≠ none := by decide

theorem witness_CounterOnlyIncrements :
    (∃ t, exec .rdexst (replying [0x07, 0x6D]) = .next t) ∧
    (∃ t, step (conn 65535) = .next t) ∧ (conn 65535).port ≠ some .reset ∧
    (∃ t, step { openable with inFlight := some (.opening .send [7]) } = .next t) ∧ openable.port ≠ some .reset ∧
    (∃ t, step { conn 65535 with port := some .reset } = .next t) :=
  ⟨⟨_, rfl⟩, ⟨_, rfl⟩, by decide, ⟨_, rfl⟩, by decide, ⟨_, rfl⟩⟩

/-- Also for LinkFollowsItsEvents. -/
theorem witness_UnitAndProtocolIdConstant :
    { replying [0x07, 0x6D] with port := some (.command [0x07]) }.port ≠ some .reset ∧
    ∃ t, step { replying [0x07, 0x6D] with port := some (.command [0x07]) } = .next t :=
  ⟨by decide, _, rfl⟩

/-- A state that meets the invariant and whose step makes all three calls, one that resumes a read, and one
that closes. -/
theorem witness_LinkCallsInOrder :
    (Inv { openable with inFlight := some (.opening (.operation 17 .pr) [17]), writeIn := [.written],
                         readIn := [.fails [] true] } ∧
      ∃ t, step { openable with inFlight := some (.opening (.operation 17 .pr) [17]), writeIn := [.written],
                                readIn := [.fails [] true] } = .next t) ∧
    (∃ t, step { conn 7 with inFlight := some (.reading (.operation 7 .pe) 7), readIn := [.fails [] true] } =
      .next t) ∧
    (∃ t, step { conn 7 with port := some (.command [0xC1]) } = .next t) := by
  refine ⟨⟨⟨fun _ => rfl, fun f hf => ?_, fun e a h => ?_, fun b h => ?_⟩, _, rfl⟩, ⟨_, rfl⟩, ⟨_, rfl⟩⟩
  · cases hf
    exact ⟨rfl, by decide, 17, [], rfl, by decide, by decide⟩
  · simp [openable, disc, State.reset] at h
  · simp [openable, disc, State.reset] at h

theorem witness_ObservationsAreNeverRead :
    (∃ t, step { { conn 7 with port := some (.command [0xC1]) } with results := [], trace := [] } = .next t) ∧
    step { { conn 7 with port := some (.command [0xC0]) } with results := [], trace := [] } =
      .refused .connectWhileConnected :=
  ⟨⟨_, rfl⟩, rfl⟩

theorem witness_SecondCommandRefused :
    { conn 7 with port := some (.command [0xC1]), inFlight := some (.reading .send 7) }.port =
      some (.command [0xC1]) ∧
    { conn 7 with port := some (.command [0xC1]), inFlight := some (.reading .send 7) }.inFlight ≠ none := by
  decide

theorem witness_ReservedCodesRefused :
    { conn 7 with port := some (.command (0x09 :: [])) }.port = some (.command (0x09 :: [])) ∧
    (conn 7).inFlight = none ∧
    (0x09 : Byte).toNat ∉ [1, 2, 3, 4, 5, 6, 7, 8, 11, 15, 16, 17, 22, 23, 24, 0xC0, 0xC1, 0xC2, 0xD0, 0xD1,
      0xD2, 0xD3, 0xE0, 0xE1, 0xE2, 0xE3, 0xE4, 0xE5, 0xF0] := by decide

theorem witness_StepRunsTheDecodedCommand :
    (conn 7).inFlight = none ∧ decode [0xC1] = .ok .close ∧ (conn 7).port = none ∧
    { conn 7 with program := [.reset] }.program = .reset :: [] ∧ (conn 7).program = [] :=
  ⟨rfl, rfl, rfl, rfl, rfl⟩

theorem witness_DecodeInvertsEncode :
    (Instr.unpkb [0xA5] 4294967295).wellFormed = true ∧ (Instr.wrmcoil 0 [true]).wellFormed = true := by decide

theorem witness_DecodableMessagesAreEncodings : decode [0xF0, 0xFF] = .ok (.exclbl 255) := by rfl

/-- A session that waits for its read answer meets the invariant, and steps. -/
theorem witness_EveryStepKeepsInvariant :
    Inv { conn 7 with inFlight := some (.reading (.operation 7 .pe) 7), rxQueue := [1, 2] } ∧
    ∃ t, step { conn 7 with inFlight := some (.reading (.operation 7 .pe) 7), rxQueue := [1, 2] } = .next t := by
  refine ⟨⟨fun h => ?_, fun f hf => ?_, fun e a h => ?_, fun b h => ?_⟩, _, rfl⟩
  · simp [conn] at h
  · cases hf
    exact ⟨rfl, by decide, rfl⟩
  · simp [conn, State.reset] at h
  · simp [conn, State.reset] at h

end Sys2Proof.Tests
end

section
/-! PROOFS. The converters of layer L0 (spec/40_convert.md R90 to R93): what their commands answer, where each
element of a byte-order conversion lands, and the four statements about them. -/

namespace Sys2Proof.Machine

open Sys2Proof.Safety

/-! ## What the four commands answer -/

theorem exec_w2b (words : List Word) (s : State) :
    exec (.w2b words) s = .next (answered s (.ok (.bytes (wordsToBytes words)))) := rfl

theorem exec_b2w (bytes : List Byte) (s : State) :
    exec (.b2w bytes) s = .next (answered s (.ok (.words (bytesToWords bytes)))) := rfl

theorem exec_packb (bits : List Bool) (s : State) :
    exec (.packb bits) s = .next (answered s (.ok (.bytes (packBits bits)))) := rfl

theorem unpackChecked_of_le {bytes : List Byte} {qty : Nat} (h : qty ≤ 8 * bytes.length) :
    unpackChecked bytes qty = some (unpackBits bytes qty) := if_neg (Nat.not_lt.mpr h)

theorem unpackChecked_of_lt {bytes : List Byte} {qty : Nat} (h : 8 * bytes.length < qty) :
    unpackChecked bytes qty = none := if_pos h

theorem exec_unpkb_of_le {bytes : List Byte} {qty : Nat} (h : qty ≤ 8 * bytes.length) (s : State) :
    exec (.unpkb bytes qty) s = .next (answered s (.ok (.bools (unpackBits bytes qty)))) := by
  simp only [exec, execUNPKB, unpackChecked_of_le h, complete_eq]

theorem exec_unpkb_of_lt {bytes : List Byte} {qty : Nat} (h : 8 * bytes.length < qty) (s : State) :
    exec (.unpkb bytes qty) s = .refused .unpackTooFewBits := by
  simp only [exec, execUNPKB, unpackChecked_of_lt h]

/-! ## Where each element of a byte-order conversion lands -/

/-- The byte of higher weight of word `i` stands at position `2i`. -/
theorem wordsToBytes_getElem?_high (ws : List Word) (i : Nat) :
    (wordsToBytes ws)[2 * i]? = ws[i]?.map fun w => BitVec.ofNat 8 (w.toNat / 256) := by
  induction ws generalizing i with
  | nil => simp
  | cons w ws ih =>
    cases i with
    | zero => simp
    | succ i => simp [Nat.mul_succ, ih]

/-- The byte of lower weight of word `i` stands at position `2i + 1`. -/
theorem wordsToBytes_getElem?_low (ws : List Word) (i : Nat) :
    (wordsToBytes ws)[2 * i + 1]? = ws[i]?.map fun w => BitVec.ofNat 8 (w.toNat % 256) := by
  induction ws generalizing i with
  | nil => simp
  | cons w ws ih =>
    cases i with
    | zero => simp
    | succ i => simp [Nat.mul_succ, ih]

/-- Word `i` is made of the pair of bytes at positions `2i` and `2i + 1`. -/
theorem bytesToWords_getElem?_pair {b : List Byte} {i : Nat} {h l : Byte}
    (hh : b[2 * i]? = some h) (hl : b[2 * i + 1]? = some l) : (bytesToWords b)[i]? = some (u16be h l) := by
  induction b using bytesToWords.induct generalizing i with
  | case1 => simp at hh
  | case2 b => simp at hl
  | case3 h' l' rest ih =>
    cases i with
    | zero => simp_all
    | succ i => simpa using ih (i := i) (by simpa [Nat.mul_succ] using hh) (by simpa [Nat.mul_succ] using hl)

/-- The single byte after `i` pairs is word `i`, as its low byte. -/
theorem bytesToWords_getElem?_tail {bytes : List Byte} {i : Nat} {b : Byte}
    (hlen : bytes.length = 2 * i + 1) (hb : bytes[2 * i]? = some b) :
    (bytesToWords bytes)[i]? = some (b.setWidth 16) := by
  induction bytes using bytesToWords.induct generalizing i with
  | case1 => simp at hb
  | case2 b' =>
    obtain rfl : i = 0 := by simpa using hlen
    simp_all [bytesToWords]
  | case3 h l rest ih =>
    cases i with
    | zero => simp at hlen
    | succ i =>
      have hrest : rest.length = 2 * i + 1 := by simp only [List.length_cons] at hlen; omega
      simpa using ih hrest (by simpa [Nat.mul_succ] using hb)

/-! ## The statements -/

/-- Settles O1: the answer is `wordsToBytes words`, and each word's two bytes are found by position. -/
theorem wordsToBytesBigEndian : Obligations.WordsToBytesBigEndian := fun words s =>
  ⟨wordsToBytes words, exec_w2b words s, wordsToBytes_length words, fun i w hw =>
    ⟨by simp [wordsToBytes_getElem?_high, hw], by simp [wordsToBytes_getElem?_low, hw]⟩⟩

/-- Settles O2: the answer is `bytesToWords bytes`, by pairs and then the single trailing byte. -/
theorem bytesToWordsWithOddTail : Obligations.BytesToWordsWithOddTail := fun bytes s =>
  ⟨bytesToWords bytes, exec_b2w bytes s, bytesToWords_length bytes,
    fun _ _ _ hh hl => bytesToWords_getElem?_pair hh hl,
    fun _ _ hlen hb => bytesToWords_getElem?_tail hlen hb⟩

/-- Settles O3: the answer is `packBits bits`, whose bits are known one by one. -/
theorem packBitsLeastSignificantFirst : Obligations.PackBitsLeastSignificantFirst := fun bits s =>
  ⟨packBits bits, exec_packb bits s, packBits_length bits, packBits_getElem?_getLsbD bits⟩

/-- Settles O4: with bits enough the answer is `unpackBits bytes qty`; with fewer the check refuses. -/
theorem unpackBitsOrRefuse : Obligations.UnpackBitsOrRefuse := by
  intro bytes qty s
  constructor
  · intro h
    refine ⟨unpackBits bytes qty, exec_unpkb_of_le h s, unpackBits_length bytes qty, fun i byte hi hbyte => ?_⟩
    have hget : bytes.getD (i / 8) 0 = byte := by simp [List.getD_eq_getElem?_getD, hbyte]
    rw [unpackBits_getElem? bytes qty i hi, hget]
  · intro h
    exact exec_unpkb_of_lt h s

end Sys2Proof.Machine
end

section
/-! PROOFS. The PDU codec of layer L1 (spec/41_pdu.md R111, R112, R114): what PDUENC and PDUDEC answer, and the
two statements about them. -/

namespace Sys2Proof.Machine

open Sys2Proof.Safety

/-! ## What a pure stage's command answers -/

theorem completeWith_ok {α : Type} (value : α → Value) (v : α) (s : State) :
    completeWith value (.ok v) s = .next (answered s (.ok (value v))) := rfl

theorem completeWith_error {α : Type} (value : α → Value) (k : ErrKind) (s : State) :
    completeWith value (.error k) s = .next (answered s (.err k)) := rfl

/-! ## What PDUENC and PDUDEC answer -/

theorem exec_pduenc_of_ok {pdu : Pdu} {bytes : List Byte} (h : pduEncode pdu = .ok bytes) (s : State) :
    exec (.pduenc pdu) s = .next (answered s (.ok (.bytes bytes))) := by
  simp only [exec, execPDUENC, h, completeWith_ok]

theorem exec_pduenc_of_error {pdu : Pdu} {k : ErrKind} (h : pduEncode pdu = .error k) (s : State) :
    exec (.pduenc pdu) s = .next (answered s (.err k)) := by
  simp only [exec, execPDUENC, h, completeWith_error]

theorem exec_pdudec_nil (s : State) : exec (.pdudec []) s = .next (answered s (.err .truncatedPdu)) := rfl

/-- No test of the function byte (R114), none of the payload's length. -/
theorem exec_pdudec_cons (f : Byte) (payload : List Byte) (s : State) :
    exec (.pdudec (f :: payload)) s = .next (answered s (.ok (.pdu ⟨f, payload⟩))) := rfl

/-! ## The statements -/

/-- Settles O6: one clause for each of `pduEncode`'s three answers, in the order of its tests. -/
theorem pduEncodeChecksInOrder : Obligations.PduEncodeChecksInOrder := by
  intro f payload s
  refine ⟨?zero, ?tooLong, ?fits⟩
  case zero =>
    rintro rfl
    exact exec_pduenc_of_error (pduEncode_zero payload) s
  case tooLong =>
    intro hf hl
    exact exec_pduenc_of_error (pduEncode_tooLong hf hl) s
  case fits =>
    intro hf hl
    exact exec_pduenc_of_ok (pduEncode_ok hf hl) s

/-- Settles O7: `pduDecode` splits on its input, and only the empty one is an error. -/
theorem pduDecodeFailsOnEmptyOnly : Obligations.PduDecodeFailsOnEmptyOnly := fun s =>
  ⟨exec_pdudec_nil s, fun f payload => exec_pdudec_cons f payload s⟩

end Sys2Proof.Machine
end

section
/-! PROOFS. The header and envelope codec of layer L1 (spec/42_envelope.md R120 to R123): what the pure codec
functions answer where Laws/Codec.lean does not say it yet, what the four commands answer, and the four statements
about them. -/

namespace Sys2Proof.Machine

open Sys2Proof.Safety

/-! ## What the pure codec functions answer -/

theorem headerEncode_mk (t p l : Word) (u : Byte) :
    headerEncode ⟨t, p, l, u⟩ = be16 t ++ be16 p ++ be16 l ++ [u] := rfl

/-- The bytes from the eighth on are not looked at (R121, D30). -/
theorem headerDecode_cons (b0 b1 b2 b3 b4 b5 b6 : Byte) (rest : List Byte) :
    headerDecode (b0 :: b1 :: b2 :: b3 :: b4 :: b5 :: b6 :: rest) =
      .ok ⟨u16be b0 b1, u16be b2 b3, u16be b4 b5, b6⟩ := rfl

theorem envelopeEncode_of_ok {pdu : Pdu} {p : List Byte} (hp : pduEncode pdu = .ok p) (h : Header) :
    envelopeEncode h pdu = .ok (headerEncode h ++ p) := by
  simp only [envelopeEncode, hp]

theorem envelopeEncode_of_error {pdu : Pdu} {k : ErrKind} (hp : pduEncode pdu = .error k) (h : Header) :
    envelopeEncode h pdu = .error k := by
  simp only [envelopeEncode, hp]

theorem envelopeDecode_short {b : List Byte} (hb : b.length < 8) :
    envelopeDecode b = .error .truncatedEnvelope := if_pos hb

/-! ## What the four commands answer -/

theorem exec_hdrenc (h : Header) (s : State) :
    exec (.hdrenc h) s = .next (answered s (.ok (.bytes (headerEncode h)))) := rfl

theorem exec_hdrdec_of_ok {b : List Byte} {h : Header} (hb : headerDecode b = .ok h) (s : State) :
    exec (.hdrdec b) s = .next (answered s (.ok (.header h))) := by
  simp only [exec, execHDRDEC, hb, completeWith_ok]

theorem exec_hdrdec_of_error {b : List Byte} {k : ErrKind} (hb : headerDecode b = .error k) (s : State) :
    exec (.hdrdec b) s = .next (answered s (.err k)) := by
  simp only [exec, execHDRDEC, hb, completeWith_error]

/-- ENVENC succeeds where PDUENC does, with the header as given in front. -/
theorem exec_envenc_of_ok {pdu : Pdu} {p : List Byte} (hp : pduEncode pdu = .ok p) (h : Header) (s : State) :
    exec (.envenc h pdu) s = .next (answered s (.ok (.bytes (headerEncode h ++ p)))) := by
  simp only [exec, execENVENC, envelopeEncode_of_ok hp, completeWith_ok]

/-- ENVENC fails where PDUENC does, with the same error. -/
theorem exec_envenc_of_error {pdu : Pdu} {k : ErrKind} (hp : pduEncode pdu = .error k) (h : Header) (s : State) :
    exec (.envenc h pdu) s = .next (answered s (.err k)) := by
  simp only [exec, execENVENC, envelopeEncode_of_error hp, completeWith_error]

theorem exec_envdec_of_ok {b : List Byte} {h : Header} {pdu : Pdu} (hb : envelopeDecode b = .ok (h, pdu))
    (s : State) : exec (.envdec b) s = .next (answered s (.ok (.envelope h pdu))) := by
  simp only [exec, execENVDEC, hb, completeWith_ok]

theorem exec_envdec_of_error {b : List Byte} {k : ErrKind} (hb : envelopeDecode b = .error k) (s : State) :
    exec (.envdec b) s = .next (answered s (.err k)) := by
  simp only [exec, execENVDEC, hb, completeWith_error]

/-! ## The statements -/

/-- Settles O9: the answer is `headerEncode` of the header, whose seven bytes are the fields' own. -/
theorem headerEncodeLayout : Obligations.HeaderEncodeLayout := fun t p l u s => exec_hdrenc ⟨t, p, l, u⟩ s

/-- Settles O10: `headerDecode` splits on whether seven bytes are there. -/
theorem headerDecodeFirstSeven : Obligations.HeaderDecodeFirstSeven := fun s =>
  ⟨fun b hb => exec_hdrdec_of_error (headerDecode_short b hb) s,
    fun b0 b1 b2 b3 b4 b5 b6 rest => exec_hdrdec_of_ok (headerDecode_cons b0 b1 b2 b3 b4 b5 b6 rest) s⟩

/-- Settles O11: one clause for each of `pduEncode`'s three answers, which ENVENC hands on. -/
theorem envelopeEncodeLayout : Obligations.EnvelopeEncodeLayout := by
  intro t p l u f payload s
  refine ⟨?zero, ?tooLong, ?fits⟩
  case zero =>
    rintro rfl
    exact exec_envenc_of_error (pduEncode_zero payload) _ s
  case tooLong =>
    intro hf hl
    exact exec_envenc_of_error (pduEncode_tooLong hf hl) _ s
  case fits =>
    intro hf hl
    rw [exec_envenc_of_ok (pduEncode_ok hf hl), headerEncode_mk]

/-- Settles O12: below eight bytes the length test fails; from eight on there is a function byte, and both parts
decode. -/
theorem envelopeDecodeTakesAllTheRest : Obligations.EnvelopeDecodeTakesAllTheRest := fun s =>
  ⟨fun _ hb => exec_envdec_of_error (envelopeDecode_short hb) s,
    fun b0 b1 b2 b3 b4 b5 b6 f payload => exec_envdec_of_ok (envelopeDecode_cons b0 b1 b2 b3 b4 b5 b6 f payload) s⟩

end Sys2Proof.Machine
end

section
/-! PROOFS. CLOSE of layer L2 (spec/43_transport.md R137): what it answers on each value of S.LINK, and the
statement about it. -/

namespace Sys2Proof.Machine

open Sys2Proof.Safety

/-- `LinkClose` with S.LINK set after it: the queue is discarded, the call recorded (R40, R41). -/
theorem linkClose_setLink (s : State) (l : LinkState) :
    (linkClose s).setLink l = { s with link := l, rxQueue := [], trace := s.trace ++ [.close] } := rfl

theorem exec_close_of_disconnected {s : State} (h : s.link = .disconnected) :
    exec .close s = .next (answered s (.err .notConnected)) := by
  simp only [exec, execCLOSE, h, raise_eq]

theorem exec_close_of_connected {s : State} (h : s.link = .connected) :
    exec .close s = .next (answered
      { s with link := .disconnected, rxQueue := [], trace := s.trace ++ [.close] } (.ok .nothing)) := by
  simp only [exec, execCLOSE, h, complete_eq, linkClose_setLink]

/-- Settles O16: `execCLOSE` splits on S.LINK, and only its connected branch calls the link. -/
theorem closeOutcomes : Obligations.CloseOutcomes := fun _ =>
  ⟨exec_close_of_disconnected, exec_close_of_connected⟩

end Sys2Proof.Machine
end

section
/-! PROOFS. The host channel's decoder on known messages (spec/30_encoding.md R56, R57, R63): `decode` is the code's
row of the table and then that row's operand parser; what the parsers with a test of their own read; and the
statement about the six messages. -/

namespace Sys2Proof.Machine

/-- A message names command `i` where its code has a row in the table (R63) and that row's operand parser reads
`i` from the other bytes. -/
theorem decode_of_operandParser {code : Byte} {operands : List Byte} {parse : List Byte → Option Instr}
    {i : Instr} (hrow : operandParser code.toNat = some parse) (hparse : parse operands = some i) :
    decode (code :: operands) = .ok i := by
  simp only [decode, hrow, hparse]

/-! ## The operand parsers that test what they read -/

theorem parseCoil_true (h l : Byte) :
    parseCoil (h :: l :: coilField true) = some (.wrcoil (u16be h l) true) := by
  simp only [parseCoil, if_true]

/-- The bits are the ones whose own request is these bytes (R56). -/
theorem parseCoils_of_request {h l ch cl bc : Byte} {data : List Byte} {vals : List Bool}
    (hvals : unpackBits data (coilCount data.length (u16be ch cl)) = vals)
    (hrequest : h :: l :: ch :: cl :: bc :: data = requestQACB (u16be h l) vals.length (packBits vals)) :
    parseCoils (h :: l :: ch :: cl :: bc :: data) = some (.wrmcoil (u16be h l) vals) := by
  subst hvals
  simp only [parseCoils, if_pos hrequest]

/-- The words are the ones whose own request is these bytes (R56). -/
theorem parseReadWrite_of_request {rh rl qh ql wh wl ch cl bc : Byte} {data : List Byte} {vals : List Word}
    (hvals : bytesToWords data = vals)
    (hrequest : rh :: rl :: qh :: ql :: wh :: wl :: ch :: cl :: bc :: data =
      requestQRW (u16be rh rl) (u16be qh ql) (u16be wh wl) vals) :
    parseReadWrite (rh :: rl :: qh :: ql :: wh :: wl :: ch :: cl :: bc :: data) =
      some (.rwmreg (u16be rh rl) (u16be qh ql) (u16be wh wl) vals) := by
  subst hvals
  simp only [parseReadWrite, if_pos hrequest]

/-! ## The statement -/

/-- Settles O53: the row of each code, then its parser on the operand bytes; for WRMCOIL and RWMREG the array read
is the one whose request the bytes are. -/
theorem knownMessagesDecode : Obligations.KnownMessagesDecode := by
  refine ⟨?rdcoil, ?wrcoil, ?wrmcoil, ?rwmreg, ?connect, ?exclbl⟩
  case rdcoil => exact decode_of_operandParser rfl rfl
  case wrcoil => exact decode_of_operandParser rfl (parseCoil_true 0x00 0xAC)
  case wrmcoil => exact decode_of_operandParser rfl (parseCoils_of_request (by decide) (by decide))
  case rwmreg => exact decode_of_operandParser rfl (parseReadWrite_of_request (by decide) (by decide))
  case connect => exact decode_of_operandParser rfl rfl
  case exclbl => exact decode_of_operandParser rfl rfl

end Sys2Proof.Machine
end

section
/-! PROOFS. EXCLBL of layer L3 (spec/45_taxonomy.md R200): what it answers, the category of a code the table does
not list, and the statement about the table. -/

namespace Sys2Proof.Machine

open Sys2Proof.Safety

theorem exec_exclbl (code : Byte) (s : State) :
    exec (.exclbl code) s = .next (answered s (.ok (.category (categoryOf code)))) := rfl

/-- Each of the nine rows before the default needs a listed code. -/
theorem categoryOf_of_unlisted {code : Byte} (h : code.toNat ∉ [1, 2, 3, 4, 5, 6, 8, 10, 11]) :
    categoryOf code = .unknownException := by
  unfold categoryOf
  split
  case h_10 => rfl
  all_goals
    next hrow => exact absurd (by rw [hrow]; decide) h

/-- Settles O39: the answer is `categoryOf code`, whose rows are read one by one and whose default is
`categoryOf_of_unlisted`. -/
theorem exceptionCategoryTable : Obligations.ExceptionCategoryTable := by
  intro code s
  refine ⟨categoryOf code, exec_exclbl code s, ?row1, ?row2, ?row3, ?row4, ?row5, ?row6, ?row8, ?row10, ?row11,
    ?unlisted⟩
  case unlisted =>
    intro h
    rw [categoryOf_of_unlisted h]
    exact ⟨rfl, rfl⟩
  all_goals
    rintro rfl
    exact ⟨rfl, rfl⟩

end Sys2Proof.Machine
end

section
/-! PROOFS. The five laws of the converters (spec/40_convert.md R94): the two byte-order conversions and the two
bit-array conversions invert each other, on all of one side and on exactly the stated part of the other. -/

namespace Sys2Proof.Machine

open Sys2Proof.Safety

/-! ## Words and bytes -/

@[simp] theorem bytesToWords_wordsToBytes (ws : List Word) : bytesToWords (wordsToBytes ws) = ws := by
  induction ws with
  | nil => rfl
  | cons w ws ih => simp [ih]

theorem wordsToBytes_bytesToWords_of_even {b : List Byte} (h : b.length % 2 = 0) :
    wordsToBytes (bytesToWords b) = b := by
  induction b using bytesToWords.induct with
  | case1 => rfl
  | case2 b => simp at h
  | case3 h' l rest ih =>
    have hrest : rest.length % 2 = 0 := by simp only [List.length_cons] at h; omega
    have hpair : wordsToBytes (u16be h' l :: bytesToWords rest) =
        be16 (u16be h' l) ++ wordsToBytes (bytesToWords rest) := rfl
    rw [bytesToWords_cons_cons, hpair, be16_u16be, ih hrest]
    rfl

/-- The conversion to words loses nothing exactly where no byte stands alone. -/
theorem wordsToBytes_bytesToWords_iff (b : List Byte) : wordsToBytes (bytesToWords b) = b ↔ b.length % 2 = 0 := by
  refine ⟨fun h => ?_, wordsToBytes_bytesToWords_of_even⟩
  rw [← h, wordsToBytes_length]
  omega

/-- A number below 256 as a word has the byte of higher weight 0. -/
theorem be16_ofNat_of_lt {n : Nat} (h : n < 256) : be16 (BitVec.ofNat 16 n) = [0, BitVec.ofNat 8 n] := by
  have hn : (BitVec.ofNat 16 n).toNat = n := by rw [BitVec.toNat_ofNat]; omega
  rw [be16, hn, Nat.div_eq_of_lt h, Nat.mod_eq_of_lt h]
  rfl

/-- A single trailing byte comes back as the low byte of a word. -/
theorem wordsToBytes_bytesToWords_odd (front : List Byte) (last : Byte) (h : front.length % 2 = 0) :
    wordsToBytes (bytesToWords (front ++ [last])) = front ++ [0, last] := by
  induction front using bytesToWords.induct with
  | case1 =>
    have hlast : be16 (last.setWidth 16) = [0, last] := by simpa using be16_ofNat_of_lt last.isLt
    simpa [bytesToWords, wordsToBytes] using hlast
  | case2 b => simp at h
  | case3 h' l rest ih =>
    have hrest : rest.length % 2 = 0 := by simp only [List.length_cons] at h; omega
    have hpair : wordsToBytes (u16be h' l :: bytesToWords (rest ++ [last])) =
        be16 (u16be h' l) ++ wordsToBytes (bytesToWords (rest ++ [last])) := rfl
    rw [List.cons_append, List.cons_append, bytesToWords_cons_cons, hpair, be16_u16be, ih hrest]
    rfl

/-! ## Bits and bytes -/

@[simp] theorem unpackBits_packBits (x : List Bool) : unpackBits (packBits x) x.length = x := by
  refine List.ext_getElem? fun i => ?_
  by_cases hi : i < x.length
  · have hlt : i / 8 < (packBits x).length := by rw [packBits_length]; omega
    have hbyte : (packBits x)[i / 8]? = some (packBits x)[i / 8] := List.getElem?_eq_getElem hlt
    have hbit := packBits_getElem?_getLsbD x (i / 8) (i % 8) _ hbyte (Nat.mod_lt _ (by omega))
    rw [unpackBits_getElem? _ _ _ hi, List.getD_eq_getElem?_getD, hbyte, Option.getD_some, hbit,
      Nat.div_add_mod, List.getD_eq_getElem?_getD, List.getElem?_eq_getElem hi, Option.getD_some]
  · rw [List.getElem?_eq_none (by simpa using hi), List.getElem?_eq_none (by simpa using hi)]

/-- Bit `j` of byte `k` after unpacking `q` bits and packing them again: the bit that was there, if it was among
the `q`, else zero. -/
theorem packBits_unpackBits_getLsbD {b : List Byte} {q k j : Nat} {byte : Byte}
    (h : (packBits (unpackBits b q))[k]? = some byte) (hj : j < 8) :
    byte.getLsbD j = (decide (8 * k + j < q) && (b.getD k 0).getLsbD j) := by
  rw [packBits_getElem?_getLsbD _ k j byte h hj, List.getD_eq_getElem?_getD]
  by_cases hq : 8 * k + j < q
  · have hk : (8 * k + j) / 8 = k := by omega
    have hm : (8 * k + j) % 8 = j := by omega
    rw [unpackBits_getElem? _ _ _ hq, hk, hm]
    simp [hq]
  · rw [List.getElem?_eq_none (by simpa using hq)]
    simp [hq]

/-- Packing what was unpacked gives the bytes back where the byte count is right and every bit from `q` on is
zero. -/
theorem packBits_unpackBits_iff (b : List Byte) (q : Nat) :
    packBits (unpackBits b q) = b ↔
      b.length = (q + 7) / 8 ∧
      ∀ k j byte, b[k]? = some byte → j < 8 → q ≤ 8 * k + j → byte.getLsbD j = false := by
  constructor
  · intro h
    refine ⟨by rw [← h, packBits_length, unpackBits_length], fun k j byte hbyte hj hq => ?_⟩
    rw [← h] at hbyte
    rw [packBits_unpackBits_getLsbD hbyte hj, decide_eq_false (Nat.not_lt.mpr hq), Bool.false_and]
  · rintro ⟨hlen, hzero⟩
    have hlen' : (packBits (unpackBits b q)).length = b.length := by
      rw [packBits_length, unpackBits_length, hlen]
    refine List.ext_getElem hlen' fun k hk hkb => BitVec.eq_of_getLsbD_eq fun j hj => ?_
    have hbyte : b[k]? = some b[k] := List.getElem?_eq_getElem hkb
    rw [packBits_unpackBits_getLsbD (List.getElem?_eq_getElem hk) hj, List.getD_eq_getElem?_getD, hbyte,
      Option.getD_some]
    by_cases hq : 8 * k + j < q
    · simp [hq]
    · simp [hq, hzero k j _ hbyte hj (Nat.not_lt.mp hq)]

/-- With the right byte count only the last byte has bits from `q` on, and only if `q` is no multiple of 8. -/
theorem high_bits_zero_iff_last {b : List Byte} {q : Nat} (hlen : b.length = (q + 7) / 8) :
    (∀ k j byte, b[k]? = some byte → j < 8 → q ≤ 8 * k + j → byte.getLsbD j = false) ↔
      (q % 8 ≠ 0 → ∀ last j, b.getLast? = some last → q % 8 ≤ j → last.getLsbD j = false) := by
  constructor
  · intro h hq last j hlast hj
    rw [List.getLast?_eq_getElem?] at hlast
    by_cases hj8 : j < 8
    · exact h _ j last hlast hj8 (by omega)
    · exact BitVec.getLsbD_of_ge last j (Nat.not_lt.mp hj8)
  · intro h k j byte hbyte hj hq
    have hk : k < b.length := (List.getElem?_eq_some_iff.mp hbyte).1
    have hlast : b.getLast? = some byte := by
      rw [List.getLast?_eq_getElem?, ← hbyte]
      congr 1
      omega
    exact h (by omega) byte j hlast (by omega)

/-- Settles O5: the four inverses above, each with its exact condition, and the lengths. -/
theorem converterLaws : Obligations.ConverterLaws := by
  refine ⟨bytesToWords_wordsToBytes, fun b => ⟨wordsToBytes_bytesToWords_iff b, ?odd⟩, unpackBits_packBits,
    ?bits, wordsToBytes_length, bytesToWords_length, packBits_length, unpackBits_length⟩
  case odd =>
    rintro front last rfl hlen
    rw [List.length_append, List.length_singleton] at hlen
    exact wordsToBytes_bytesToWords_odd front last (by omega)
  case bits =>
    intro b q _
    rw [packBits_unpackBits_iff]
    exact and_congr_right fun hlen => high_bits_zero_iff_last hlen

end Sys2Proof.Machine
end

section
/-! PROOFS. The host channel's messages (spec/30_encoding.md R56, R57, R63): for each operand parser exactly which
operand bytes it reads and as what, and from that the two round trips of `decode` and `encode`. -/

namespace Sys2Proof.Machine

open Sys2Proof.Safety

/-! ## Bytes as fields -/

/-- Two bytes are always the bytes of one word. -/
theorem cons_cons_eq_be16 (h l : Byte) (rest : List Byte) : h :: l :: rest = be16 (u16be h l) ++ rest := by
  rw [be16_u16be]
  rfl

/-- Four bytes, high byte first, as a number (the count of UNPKB, log entry 11). -/
theorem be32_of_bytes (a b c d : Byte) :
    be32 (16777216 * a.toNat + 65536 * b.toNat + 256 * c.toNat + d.toNat) = [a, b, c, d] := by
  have := a.isLt; have := b.isLt; have := c.isLt; have := d.isLt
  simp only [be32, List.cons.injEq, and_true]
  refine ⟨?_, ?_, ?_, ?_⟩ <;> apply BitVec.eq_of_toNat_eq <;> simp only [BitVec.toNat_ofNat] <;> omega

/-! ## What each operand parser reads -/

theorem parseNone_eq_some {i j : Instr} {m : List Byte} : parseNone i m = some j ↔ m = [] ∧ j = i := by
  cases m <;> simp [parseNone, eq_comm]

theorem parseByte_eq_some {f : Byte → Instr} {m : List Byte} {j : Instr} :
    parseByte f m = some j ↔ ∃ b, m = [b] ∧ j = f b := by
  constructor
  · intro h
    unfold parseByte at h
    split at h <;> cases h
    exact ⟨_, rfl, rfl⟩
  · rintro ⟨b, rfl, rfl⟩
    rfl

theorem parseWord1_eq_some {f : Word → Instr} {m : List Byte} {j : Instr} :
    parseWord1 f m = some j ↔ ∃ a, m = requestQA a ∧ j = f a := by
  constructor
  · intro h
    unfold parseWord1 at h
    split at h <;> cases h
    exact ⟨_, (be16_u16be _ _).symm, rfl⟩
  · rintro ⟨a, rfl, rfl⟩
    simp [requestQA, be16, parseWord1]

theorem parseWord2_eq_some {f : Word → Word → Instr} {m : List Byte} {j : Instr} :
    parseWord2 f m = some j ↔ ∃ a b, m = requestQAQ a b ∧ j = f a b := by
  constructor
  · intro h
    unfold parseWord2 at h
    split at h <;> cases h
    exact ⟨_, _, by simp [requestQAQ], rfl⟩
  · rintro ⟨a, b, rfl, rfl⟩
    simp [requestQAQ, be16, parseWord2]

theorem parseWord3_eq_some {f : Word → Word → Word → Instr} {m : List Byte} {j : Instr} :
    parseWord3 f m = some j ↔ ∃ a b c, m = requestQAMM a b c ∧ j = f a b c := by
  constructor
  · intro h
    unfold parseWord3 at h
    split at h <;> cases h
    exact ⟨_, _, _, by simp [requestQAMM], rfl⟩
  · rintro ⟨a, b, c, rfl, rfl⟩
    simp [requestQAMM, be16, parseWord3]

theorem parseCoil_eq_some {m : List Byte} {j : Instr} :
    parseCoil m = some j ↔ ∃ a v, m = requestCoil a v ∧ j = .wrcoil a v := by
  constructor
  · intro h
    unfold parseCoil at h
    split at h
    · split at h
      · cases h
        exact ⟨_, true, by simp [requestCoil, *], rfl⟩
      · split at h <;> cases h
        exact ⟨_, false, by simp [requestCoil, *], rfl⟩
    · cases h
  · rintro ⟨a, v, rfl, rfl⟩
    cases v <;> simp [requestCoil, be16, parseCoil, coilField]

theorem parseWords_eq_some {m : List Byte} {ws : List Word} : parseWords m = some ws ↔ m = wordsToBytes ws := by
  constructor
  · intro h
    unfold parseWords at h
    split at h <;> cases h
    exact (wordsToBytes_bytesToWords_of_even ‹_›).symm
  · rintro rfl
    simp [parseWords]

theorem parseDiag_eq_some {m : List Byte} {j : Instr} :
    parseDiag m = some j ↔ ∃ sub data, m = requestQSD sub data ∧ j = .diag sub data := by
  constructor
  · intro h
    unfold parseDiag at h
    split at h
    · obtain ⟨ws, hws, rfl⟩ := Option.map_eq_some_iff.mp h
      rw [parseWords_eq_some.mp hws, cons_cons_eq_be16]
      exact ⟨_, _, rfl, rfl⟩
    · cases h
  · rintro ⟨sub, data, rfl, rfl⟩
    simp [requestQSD, be16, parseDiag, parseWords_eq_some.mpr rfl]

/-- The number of coils is found again from the number of data bytes and the count field, also where the count
does not fit its field (log entry 10). -/
theorem coilCount_packBits (vals : List Bool) :
    coilCount (packBits vals).length (BitVec.ofNat 16 vals.length) = vals.length := by
  simp only [coilCount, packBits_length, BitVec.toNat_ofNat]
  split <;> omega

theorem parseCoils_eq_some {m : List Byte} {j : Instr} :
    parseCoils m = some j ↔
      ∃ a vals, m = requestQACB a vals.length (packBits vals) ∧ j = .wrmcoil a vals := by
  constructor
  · intro h
    unfold parseCoils at h
    split at h
    · dsimp only at h
      split at h <;> cases h
      exact ⟨_, _, ‹_›, rfl⟩
    · cases h
  · rintro ⟨a, vals, rfl, rfl⟩
    have hcoils := parseCoils_of_request (h := BitVec.ofNat 8 (a.toNat / 256)) (l := BitVec.ofNat 8 (a.toNat % 256))
      (bc := byteCountField (packBits vals).length) (data := packBits vals) (vals := vals)
      (ch := BitVec.ofNat 8 ((BitVec.ofNat 16 vals.length).toNat / 256))
      (cl := BitVec.ofNat 8 ((BitVec.ofNat 16 vals.length).toNat % 256))
      (by rw [u16be_be16, coilCount_packBits, unpackBits_packBits]) (by rw [u16be_be16]; rfl)
    rwa [u16be_be16] at hcoils

theorem parseRegisters_eq_some {m : List Byte} {j : Instr} :
    parseRegisters m = some j ↔
      ∃ a vals, m = requestQACB a vals.length (wordsToBytes vals) ∧ j = .wrmreg a vals := by
  constructor
  · intro h
    unfold parseRegisters at h
    split at h
    · split at h <;> cases h
      exact ⟨_, _, ‹_›, rfl⟩
    · cases h
  · rintro ⟨a, vals, rfl, rfl⟩
    simp [requestQACB, countField, be16, parseRegisters]

theorem parseReadWrite_eq_some {m : List Byte} {j : Instr} :
    parseReadWrite m = some j ↔
      ∃ ra rq wa vals, m = requestQRW ra rq wa vals ∧ j = .rwmreg ra rq wa vals := by
  constructor
  · intro h
    unfold parseReadWrite at h
    split at h
    · split at h <;> cases h
      exact ⟨_, _, _, _, ‹_›, rfl⟩
    · cases h
  · rintro ⟨ra, rq, wa, vals, rfl, rfl⟩
    simp [requestQRW, countField, be16, parseReadWrite]

theorem parsePdu_eq_some {f : Pdu → Instr} {m : List Byte} {j : Instr} :
    parsePdu f m = some j ↔ ∃ pdu : Pdu, m = pdu.function :: pdu.payload ∧ j = f pdu := by
  constructor
  · intro h
    unfold parsePdu at h
    split at h <;> cases h
    exact ⟨⟨_, _⟩, rfl, rfl⟩
  · rintro ⟨pdu, rfl, rfl⟩
    rfl

theorem parseBools_eq_some {m : List Byte} {bits : List Bool} :
    parseBools m = some bits ↔ m = bits.map fun b => if b then 1 else 0 := by
  induction m generalizing bits with
  | nil => cases bits <;> simp [parseBools]
  | cons b rest ih =>
    unfold parseBools
    split
    case isTrue h0 =>
      subst h0
      cases bits with
      | nil => simp
      | cons v vs => cases v <;> simp [ih]
    case isFalse h0 =>
      split
      case isTrue h1 =>
        subst h1
        cases bits with
        | nil => simp
        | cons v vs => cases v <;> simp [ih]
      case isFalse h1 =>
        replace h0 : b ≠ 0#8 := h0
        replace h1 : b ≠ 1#8 := h1
        cases bits with
        | nil => simp
        | cons v vs => cases v <;> simp [h0, h1]

theorem parseUnpack_eq_some {m : List Byte} {j : Instr} :
    parseUnpack m = some j ↔
      ∃ bytes qty, qty < 4294967296 ∧ m = be32 qty ++ bytes ∧ j = .unpkb bytes qty := by
  constructor
  · intro h
    unfold parseUnpack at h
    split at h <;> cases h
    rename_i a b c d bytes
    have := a.isLt; have := b.isLt; have := c.isLt; have := d.isLt
    exact ⟨bytes, _, by omega, by rw [be32_of_bytes]; rfl, rfl⟩
  · rintro ⟨bytes, qty, hqty, rfl, rfl⟩
    simp only [be32, List.cons_append, List.nil_append, parseUnpack, BitVec.toNat_ofNat, Option.some.injEq,
      Instr.unpkb.injEq, true_and]
    omega

theorem parseHeader_eq_some {f : Header → Instr} {m : List Byte} {j : Instr} :
    parseHeader f m = some j ↔ ∃ h, m = headerOperands h ∧ j = f h := by
  constructor
  · intro h
    unfold parseHeader at h
    split at h <;> cases h
    exact ⟨⟨_, _, _, _⟩, by simp [headerOperands], rfl⟩
  · rintro ⟨h, rfl, rfl⟩
    simp [headerOperands, be16, parseHeader]

theorem parseHeaderPdu_eq_some {f : Header → Pdu → Instr} {m : List Byte} {j : Instr} :
    parseHeaderPdu f m = some j ↔
      ∃ (h : Header) (pdu : Pdu), m = headerOperands h ++ pdu.function :: pdu.payload ∧ j = f h pdu := by
  constructor
  · intro h
    unfold parseHeaderPdu at h
    split at h <;> cases h
    exact ⟨⟨_, _, _, _⟩, ⟨_, _⟩, by simp [headerOperands], rfl⟩
  · rintro ⟨h, pdu, rfl, rfl⟩
    simp [headerOperands, be16, parseHeaderPdu]

/-! ## The table of parsers against the encoder -/

/-- The row of each command's code reads the command back from its operand bytes. -/
theorem operandParser_reads_operandBytes (i : Instr) (hwf : i.wellFormed = true) :
    ∃ parse, operandParser (commandCode i).toNat = some parse ∧ parse (operandBytes i) = some i := by
  cases i with
  | rdcoil a q => exact ⟨_, rfl, parseWord2_eq_some.mpr ⟨a, q, rfl, rfl⟩⟩
  | rddi a q => exact ⟨_, rfl, parseWord2_eq_some.mpr ⟨a, q, rfl, rfl⟩⟩
  | rdhr a q => exact ⟨_, rfl, parseWord2_eq_some.mpr ⟨a, q, rfl, rfl⟩⟩
  | rdir a q => exact ⟨_, rfl, parseWord2_eq_some.mpr ⟨a, q, rfl, rfl⟩⟩
  | wrcoil a v => exact ⟨_, rfl, parseCoil_eq_some.mpr ⟨a, v, rfl, rfl⟩⟩
  | wrreg a v => exact ⟨_, rfl, parseWord2_eq_some.mpr ⟨a, v, rfl, rfl⟩⟩
  | diag sub data => exact ⟨_, rfl, parseDiag_eq_some.mpr ⟨sub, data, rfl, rfl⟩⟩
  | wrmcoil a vals => exact ⟨_, rfl, parseCoils_eq_some.mpr ⟨a, vals, rfl, rfl⟩⟩
  | wrmreg a vals => exact ⟨_, rfl, parseRegisters_eq_some.mpr ⟨a, vals, rfl, rfl⟩⟩
  | maskwr a v m => exact ⟨_, rfl, parseWord3_eq_some.mpr ⟨a, v, m, rfl, rfl⟩⟩
  | rwmreg ra rq wa vals => exact ⟨_, rfl, parseReadWrite_eq_some.mpr ⟨ra, rq, wa, vals, rfl, rfl⟩⟩
  | rdfifo a => exact ⟨_, rfl, parseWord1_eq_some.mpr ⟨a, rfl, rfl⟩⟩
  | send pdu => exact ⟨_, rfl, parsePdu_eq_some.mpr ⟨pdu, rfl, rfl⟩⟩
  | w2b words => exact ⟨_, rfl, Option.map_eq_some_iff.mpr ⟨words, parseWords_eq_some.mpr rfl, rfl⟩⟩
  | packb bits => exact ⟨_, rfl, Option.map_eq_some_iff.mpr ⟨bits, parseBools_eq_some.mpr rfl, rfl⟩⟩
  | unpkb bytes qty => exact ⟨_, rfl, parseUnpack_eq_some.mpr ⟨bytes, qty, of_decide_eq_true hwf, rfl, rfl⟩⟩
  | pduenc pdu => exact ⟨_, rfl, parsePdu_eq_some.mpr ⟨pdu, rfl, rfl⟩⟩
  | hdrenc h => exact ⟨_, rfl, parseHeader_eq_some.mpr ⟨h, rfl, rfl⟩⟩
  | envenc h pdu => exact ⟨_, rfl, parseHeaderPdu_eq_some.mpr ⟨h, pdu, rfl, rfl⟩⟩
  | exclbl code => exact ⟨_, rfl, parseByte_eq_some.mpr ⟨code, rfl, rfl⟩⟩
  | b2w bytes => exact ⟨_, rfl, rfl⟩
  | pdudec bytes => exact ⟨_, rfl, rfl⟩
  | hdrdec bytes => exact ⟨_, rfl, rfl⟩
  | envdec bytes => exact ⟨_, rfl, rfl⟩
  | rdexst => exact ⟨_, rfl, rfl⟩
  | gcec => exact ⟨_, rfl, rfl⟩
  | rptid => exact ⟨_, rfl, rfl⟩
  | connect => exact ⟨_, rfl, rfl⟩
  | close => exact ⟨_, rfl, rfl⟩

/-- The parser reads only the operand bytes of well-formed commands of the code. -/
def ReadsOwnOperands (code : Byte) (parse : List Byte → Option Instr) : Prop :=
  ∀ operands i, parse operands = some i →
    commandCode i = code ∧ operandBytes i = operands ∧ i.wellFormed = true

/-- Each row of the table (R63) reads only the operand bytes of its own command. -/
theorem operandParser_readsOwnOperands {code : Byte} {parse : List Byte → Option Instr}
    (hrow : operandParser code.toNat = some parse) : ReadsOwnOperands code parse := by
  intro operands i h
  have hcode : BitVec.ofNat 8 code.toNat = code := by simp
  generalize code.toNat = n at hrow hcode
  subst hcode
  unfold operandParser at hrow
  split at hrow <;> cases hrow
  case h_1 => obtain ⟨a, q, rfl, rfl⟩ := parseWord2_eq_some.mp h; exact ⟨rfl, rfl, rfl⟩
  case h_2 => obtain ⟨a, q, rfl, rfl⟩ := parseWord2_eq_some.mp h; exact ⟨rfl, rfl, rfl⟩
  case h_3 => obtain ⟨a, q, rfl, rfl⟩ := parseWord2_eq_some.mp h; exact ⟨rfl, rfl, rfl⟩
  case h_4 => obtain ⟨a, q, rfl, rfl⟩ := parseWord2_eq_some.mp h; exact ⟨rfl, rfl, rfl⟩
  case h_5 => obtain ⟨a, v, rfl, rfl⟩ := parseCoil_eq_some.mp h; exact ⟨rfl, rfl, rfl⟩
  case h_6 => obtain ⟨a, v, rfl, rfl⟩ := parseWord2_eq_some.mp h; exact ⟨rfl, rfl, rfl⟩
  case h_7 => obtain ⟨rfl, rfl⟩ := parseNone_eq_some.mp h; exact ⟨rfl, rfl, rfl⟩
  case h_8 => obtain ⟨sub, data, rfl, rfl⟩ := parseDiag_eq_some.mp h; exact ⟨rfl, rfl, rfl⟩
  case h_9 => obtain ⟨rfl, rfl⟩ := parseNone_eq_some.mp h; exact ⟨rfl, rfl, rfl⟩
  case h_10 => obtain ⟨a, vals, rfl, rfl⟩ := parseCoils_eq_some.mp h; exact ⟨rfl, rfl, rfl⟩
  case h_11 => obtain ⟨a, vals, rfl, rfl⟩ := parseRegisters_eq_some.mp h; exact ⟨rfl, rfl, rfl⟩
  case h_12 => obtain ⟨rfl, rfl⟩ := parseNone_eq_some.mp h; exact ⟨rfl, rfl, rfl⟩
  case h_13 => obtain ⟨a, v, m, rfl, rfl⟩ := parseWord3_eq_some.mp h; exact ⟨rfl, rfl, rfl⟩
  case h_14 => obtain ⟨ra, rq, wa, vals, rfl, rfl⟩ := parseReadWrite_eq_some.mp h; exact ⟨rfl, rfl, rfl⟩
  case h_15 => obtain ⟨a, rfl, rfl⟩ := parseWord1_eq_some.mp h; exact ⟨rfl, rfl, rfl⟩
  case h_16 => obtain ⟨rfl, rfl⟩ := parseNone_eq_some.mp h; exact ⟨rfl, rfl, rfl⟩
  case h_17 => obtain ⟨rfl, rfl⟩ := parseNone_eq_some.mp h; exact ⟨rfl, rfl, rfl⟩
  case h_18 => obtain ⟨pdu, rfl, rfl⟩ := parsePdu_eq_some.mp h; exact ⟨rfl, rfl, rfl⟩
  case h_19 =>
    obtain ⟨ws, hws, rfl⟩ := Option.map_eq_some_iff.mp h
    exact ⟨rfl, (parseWords_eq_some.mp hws).symm, rfl⟩
  case h_20 => cases h; exact ⟨rfl, rfl, rfl⟩
  case h_21 =>
    obtain ⟨bits, hbits, rfl⟩ := Option.map_eq_some_iff.mp h
    exact ⟨rfl, (parseBools_eq_some.mp hbits).symm, rfl⟩
  case h_22 =>
    obtain ⟨bytes, qty, hqty, rfl, rfl⟩ := parseUnpack_eq_some.mp h
    exact ⟨rfl, rfl, decide_eq_true hqty⟩
  case h_23 => obtain ⟨pdu, rfl, rfl⟩ := parsePdu_eq_some.mp h; exact ⟨rfl, rfl, rfl⟩
  case h_24 => cases h; exact ⟨rfl, rfl, rfl⟩
  case h_25 => obtain ⟨hd, rfl, rfl⟩ := parseHeader_eq_some.mp h; exact ⟨rfl, rfl, rfl⟩
  case h_26 => cases h; exact ⟨rfl, rfl, rfl⟩
  case h_27 => obtain ⟨hd, pdu, rfl, rfl⟩ := parseHeaderPdu_eq_some.mp h; exact ⟨rfl, rfl, rfl⟩
  case h_28 => cases h; exact ⟨rfl, rfl, rfl⟩
  case h_29 => obtain ⟨c, rfl, rfl⟩ := parseByte_eq_some.mp h; exact ⟨rfl, rfl, rfl⟩

/-- A message that decodes is a code with a row in the table and operand bytes that this row reads. -/
theorem operandParser_of_decode {m : List Byte} {i : Instr} (h : decode m = .ok i) :
    ∃ code operands parse, m = code :: operands ∧ operandParser code.toNat = some parse ∧
      parse operands = some i := by
  cases m with
  | nil => cases h
  | cons code operands =>
    simp only [decode] at h
    split at h
    · cases h
    · split at h <;> cases h
      exact ⟨code, operands, _, rfl, ‹_›, ‹_›⟩

/-! ## The statements -/

/-- Settles O54: the table row of the command's own code reads its operand bytes back. -/
theorem decodeInvertsEncode : Obligations.DecodeInvertsEncode := by
  intro i hwf
  obtain ⟨parse, hrow, hparse⟩ := operandParser_reads_operandBytes i hwf
  exact decode_of_operandParser hrow hparse

/-- Settles O55: a row reads nothing but the operand bytes of its own well-formed commands. -/
theorem decodableMessagesAreEncodings : Obligations.DecodableMessagesAreEncodings := by
  intro m i h
  obtain ⟨code, operands, parse, rfl, hrow, hparse⟩ := operandParser_of_decode h
  obtain ⟨hcode, hoperands, hwf⟩ := operandParser_readsOwnOperands hrow operands i hparse
  exact ⟨by rw [encode, hcode, hoperands], hwf⟩

end Sys2Proof.Machine
end

section
/-! PROOFS. The invariant of every run (spec/20_memory.md R39, R40, spec/30_encoding.md R53, R54): what it says of
the session apart from the waiting command, that each shared operation of the exchange keeps it, and from that the
statement about every step. -/

namespace Sys2Proof.Machine

open Sys2Proof.Safety

/-! ## The session's part of the invariant -/

/-- `Inv` without its clause about the waiting command. -/
structure SessionInv (s : State) : Prop where
  queue : s.link = .disconnected → s.rxQueue = []
  writes : ∀ e a, LinkEvent.write e a ∈ s.trace → EnvelopeWf e
  reads : ∀ b, LinkEvent.read (.data b) ∈ s.trace → 1 ≤ b.length ∧ b.length ≤ 260

theorem inv_iff (s : State) : Inv s ↔ SessionInv s ∧ ∀ f, s.inFlight = some f → FlightWf s f :=
  ⟨fun ⟨hq, hf, hw, hr⟩ => ⟨⟨hq, hw, hr⟩, hf⟩, fun ⟨⟨hq, hw, hr⟩, hf⟩ => ⟨hq, hf, hw, hr⟩⟩

/-- A command that has ended leaves only the session's part to show. -/
theorem SessionInv.answered {s : State} (h : SessionInv s) (r : Result) : Inv (answered s r) :=
  (inv_iff _).mpr ⟨⟨h.queue, h.writes, h.reads⟩, nofun⟩

/-- A command that waits must fit the session it waits in. -/
theorem SessionInv.await {s : State} (h : SessionInv s) {f : InFlight} (hf : FlightWf (s.await f) f) :
    Inv (s.await f) :=
  (inv_iff _).mpr ⟨⟨h.queue, h.writes, h.reads⟩, by rintro _ ⟨⟩; exact hf⟩

/-! ## The link calls keep it -/

/-- The envelope of an encoded PDU is well built (R53, R54): its length field fits one byte. -/
theorem envelopeWf_requestEnvelope {p : List Byte} (hp : Sendable p) (tid : Word) (unit : Byte) :
    EnvelopeWf (requestEnvelope tid unit p) := by
  obtain ⟨f, payload, rfl, hf, hlen⟩ := hp
  have hlength : (requestEnvelope tid unit (f :: payload)).length = payload.length + 8 := by
    simp [requestEnvelope]; omega
  have hfield : be16 (BitVec.ofNat 16 ((f :: payload).length + 1)) = [0, BitVec.ofNat 8 (payload.length + 2)] :=
    be16_ofNat_of_lt (by rw [List.length_cons]; omega)
  refine ⟨by omega, by omega, rfl, rfl, ?highLength, ?lowLength, ?function⟩
  case highLength => rw [requestEnvelope, hfield]; rfl
  case lowLength => rw [hlength, requestEnvelope, hfield]; rfl
  case function => simpa [requestEnvelope, be16] using hf

/-- A connect that is answered adds no write and no read; a new connection has nothing queued (R40). -/
theorem SessionInv.connected {s : State} (h : SessionInv s) (rest : List ConnectAnswer) :
    SessionInv { s with
      link := .connected, connectIn := rest, rxQueue := [], trace := s.trace ++ [.connect .opened] } :=
  ⟨fun _ => rfl, fun e a hm => h.writes e a (by simpa using hm), fun b hm => h.reads b (by simpa using hm)⟩

theorem SessionInv.connectFailed {s : State} (h : SessionInv s) (rest : List ConnectAnswer) :
    SessionInv { s with connectIn := rest, trace := s.trace ++ [.connect .failed] } :=
  ⟨h.queue, fun e a hm => h.writes e a (by simpa using hm), fun b hm => h.reads b (by simpa using hm)⟩

theorem SessionInv.closed {s : State} (h : SessionInv s) :
    SessionInv { s with link := .disconnected, rxQueue := [], trace := s.trace ++ [.close] } :=
  ⟨fun _ => rfl, fun e a hm => h.writes e a (by simpa using hm), fun b hm => h.reads b (by simpa using hm)⟩

/-- A write adds its envelope, which must be well built; a lost link has its queue discarded. -/
theorem SessionInv.wrote {s : State} (h : SessionInv s) {e : List Byte} (he : EnvelopeWf e)
    (a : WriteAnswer) (l : LinkState) (q : List Byte) (hq : l = .disconnected → q = []) (rest : List WriteAnswer) :
    SessionInv { s with link := l, writeIn := rest, rxQueue := q, trace := s.trace ++ [.write e a] } := by
  refine ⟨hq, fun e' a' hm => ?_, fun b hm => h.reads b (by simpa using hm)⟩
  rcases List.mem_append.mp hm with hm | hm
  · exact h.writes e' a' hm
  · obtain ⟨rfl, rfl⟩ : e' = e ∧ a' = a := by simpa using hm
    exact he

theorem SessionInv.received {s t : State} (h : SessionInv s) {b : List Byte} (hl : s.link = .connected)
    (hr : Received s b t) : SessionInv t := by
  obtain ⟨arrived, n, o, rest, -, hb, hne, rfl⟩ := hr
  refine ⟨fun hd => by simp [hl] at hd, fun e a hm => h.writes e a (by simpa using hm), fun b' hm => ?_⟩
  rcases List.mem_append.mp hm with hm | hm
  · exact h.reads b' hm
  · obtain rfl : b' = b := by simpa using hm
    have hmax : b'.length ≤ 260 := by rw [hb, List.length_take]; omega
    exact ⟨List.length_pos_iff.mpr hne, hmax⟩

/-- A lost link has no queue (R40). -/
theorem queue_of_reported {o : Bool} {q : List Byte} (h : reported o = .disconnected) :
    (if o then q else []) = [] := by
  cases o
  · rfl
  · cases h

theorem SessionInv.failedRead {s t : State} (h : SessionInv s) {a : ReadAnswer} {o : Bool}
    (hr : FailedRead s a o t) : SessionInv t := by
  obtain ⟨d, rest, -, ha, rfl⟩ := hr
  refine ⟨queue_of_reported, fun e a' hm => h.writes e a' (by simpa using hm), fun b hm => h.reads b ?_⟩
  rcases ha with rfl | rfl <;> simpa using hm

/-! ## The exchange keeps it -/

theorem sendRead_keeps_inv {finish : Finish} {tid : Word} {s t : State} (hs : SessionInv s)
    (hl : s.link = .connected) (hf : finishWf finish = true) (htid : tid = s.txn)
    (h : sendRead finish tid s = .next t) : Inv t := by
  rcases sendRead_cases h with ⟨-, rfl⟩ | ⟨a, o, s', hr, rfl⟩ | ⟨b, s', r, hr, -, rfl⟩
  · exact hs.await ⟨hl, hf, htid⟩
  · exact (hs.failedRead hr).answered _
  · exact (hs.received hl hr).answered r

theorem sendWrite_keeps_inv {finish : Finish} {tid : Word} {p : List Byte} {s t : State} (hs : SessionInv s)
    (hl : s.link = .connected) (hf : finishWf finish = true) (htid : tid = s.txn) (hp : Sendable p)
    (h : sendWrite finish tid (requestEnvelope tid s.unit p) s = .next t) : Inv t := by
  have he := envelopeWf_requestEnvelope hp tid s.unit
  rcases sendWrite_cases h with ⟨-, rfl⟩ | ⟨o, n, rest, -, rfl⟩ | ⟨rest, -, h⟩
  · exact hs.await ⟨hl, hf, htid, p, hp, rfl⟩
  · exact (hs.wrote he (.failed o n) _ _ queue_of_reported rest).answered _
  · exact sendRead_keeps_inv (hs.wrote he .written s.link s.rxQueue hs.queue rest) hl hf htid h

theorem sendIssue_keeps_inv {finish : Finish} {p : List Byte} {s t : State} (hs : SessionInv s)
    (hl : s.link = .connected) (hf : finishWf finish = true) (hp : Sendable p)
    (h : sendIssue finish p s = .next t) : Inv t := by
  rw [sendIssue_eq] at h
  exact sendWrite_keeps_inv (s := s.nextTxn) ⟨hs.queue, hs.writes, hs.reads⟩ hl hf rfl hp h

theorem sendOpen_keeps_inv {finish : Finish} {p : List Byte} {s t : State} (hs : SessionInv s)
    (hl : s.link = .disconnected) (hf : finishWf finish = true) (hp : Sendable p)
    (h : sendOpen finish p s = .next t) : Inv t := by
  rcases sendOpen_cases h with ⟨-, rfl⟩ | ⟨rest, -, rfl⟩ | ⟨rest, -, h⟩
  · exact hs.await ⟨hl, hf, hp⟩
  · exact (hs.connectFailed rest).answered _
  · exact sendIssue_keeps_inv (hs.connected rest) rfl hf hp h

theorem connectOpen_keeps_inv {s t : State} (hs : SessionInv s) (hl : s.link = .disconnected)
    (h : connectOpen s = .next t) : Inv t := by
  rcases connectOpen_cases h with ⟨-, rfl⟩ | ⟨rest, -, rfl⟩ | ⟨rest, -, rfl⟩
  · exact hs.await hl
  · exact (hs.connectFailed rest).answered _
  · exact (hs.connected rest).answered _

theorem sendConnected_keeps_inv {finish : Finish} {p : List Byte} {s t : State} (hs : SessionInv s)
    (hf : finishWf finish = true) (hp : Sendable p) (h : sendConnected finish p s = .next t) : Inv t := by
  unfold sendConnected at h
  split at h
  · exact sendIssue_keeps_inv hs ‹_› hf hp h
  · exact sendOpen_keeps_inv hs ‹_› hf hp h

theorem pduEncode_sendable {pdu : Pdu} {p : List Byte} (h : pduEncode pdu = .ok p) : Sendable p := by
  unfold pduEncode at h
  split at h
  · cases h
  · split at h <;> cases h
    exact ⟨_, _, rfl, ‹_›, Nat.not_lt.mp ‹_›⟩

theorem exchange_keeps_inv {finish : Finish} {pdu : Pdu} {s t : State} (hs : SessionInv s)
    (hf : finishWf finish = true) (h : exchange finish pdu s = .next t) : Inv t := by
  unfold exchange at h
  split at h
  · cases h
    exact hs.answered _
  · exact sendConnected_keeps_inv hs hf (pduEncode_sendable ‹_›) h

/-! ## Commands and steps keep it -/

theorem exec_keeps_inv {i : Instr} {s t : State} (hs : SessionInv s) (h : exec i s = .next t) : Inv t := by
  rcases exec_cases h with ⟨pdu, finish, -, hf, h⟩ | ⟨-, ⟨r, rfl⟩ | ⟨hl, h⟩ | ⟨-, rfl⟩⟩
  · exact exchange_keeps_inv hs hf h
  · exact hs.answered r
  · exact connectOpen_keeps_inv hs hl h
  · exact hs.closed.answered _

theorem resume_keeps_inv {f : InFlight} {s t : State} (hs : SessionInv s) (hf : FlightWf s f)
    (h : resume f s = .next t) : Inv t := by
  cases f with
  | connect => exact connectOpen_keeps_inv hs hf h
  | opening finish p =>
    obtain ⟨hl, hfin, hp⟩ := hf
    exact sendOpen_keeps_inv hs hl hfin hp h
  | writing finish tid envelope =>
    obtain ⟨hl, hfin, htid, p, hp, rfl⟩ := hf
    exact sendWrite_keeps_inv hs hl hfin htid hp h
  | reading finish tid =>
    obtain ⟨hl, hfin, htid⟩ := hf
    exact sendRead_keeps_inv hs hl hfin htid h

/-- Settles O56: right after reset nothing is queued, in flight or in the trace. -/
theorem resetHasInvariant : Obligations.ResetHasInvariant :=
  (inv_iff _).mpr ⟨⟨fun _ => rfl, nofun, nofun⟩, nofun⟩

/-- Settles O57: each of the things a step can be keeps the invariant. -/
theorem everyStepKeepsInvariant : Obligations.EveryStepKeepsInvariant := by
  intro s t hinv h
  obtain ⟨hs, hflight⟩ := (inv_iff s).mp hinv
  rcases step_cases h with ⟨m, i, -, -, -, h⟩ | ⟨-, -, rfl⟩ | ⟨-, f, hf, h⟩ | ⟨-, -, ⟨-, rfl⟩ | ⟨a, rest, -, rfl⟩⟩
  · exact exec_keeps_inv (s := { s with port := none }) ⟨hs.queue, hs.writes, hs.reads⟩ h
  · exact (inv_iff _).mpr ⟨⟨fun _ => rfl, hs.writes, hs.reads⟩, nofun⟩
  · exact resume_keeps_inv hs (hflight f hf) h
  · exact hinv
  · exact hinv

end Sys2Proof.Machine
end

section
/-! PROOFS. The round trips of the PDU, header and envelope codecs (spec/41_pdu.md R113, spec/42_envelope.md R124,
R125), and that the eleven stages hand over one result and touch nothing else (spec/10_state.md R24). -/

namespace Sys2Proof.Machine

open Sys2Proof.Safety

/-! ## Reading an answer back -/

/-- The result that a state has been handed tells it from every other result. -/
theorem answered_inj {s : State} {r r' : Result} : answered s r = answered s r' ↔ r = r' := by
  simp [answered]

/-- PDUENC gives the bytes of a PDU exactly where both of its tests pass. -/
theorem pduEncode_eq_ok_iff {f : Byte} {payload bytes : List Byte} :
    pduEncode ⟨f, payload⟩ = .ok bytes ↔ f ≠ 0 ∧ payload.length ≤ 252 ∧ bytes = f :: payload := by
  constructor
  · intro h
    unfold pduEncode at h
    split at h
    · cases h
    · split at h <;> cases h
      exact ⟨‹_›, Nat.not_lt.mp ‹_›, rfl⟩
  · rintro ⟨hf, hl, rfl⟩
    exact pduEncode_ok hf hl

theorem exec_pduenc_answers_iff {pdu : Pdu} {bytes : List Byte} {s : State} :
    exec (.pduenc pdu) s = .next (answered s (.ok (.bytes bytes))) ↔ pduEncode pdu = .ok bytes := by
  cases h : pduEncode pdu with
  | ok p => simp [exec_pduenc_of_ok h, answered_inj]
  | error k => simp [exec_pduenc_of_error h, answered_inj]

theorem exec_pdudec_answers_iff {f : Byte} {payload : List Byte} {pdu : Pdu} {s : State} :
    exec (.pdudec (f :: payload)) s = .next (answered s (.ok (.pdu pdu))) ↔ pdu = ⟨f, payload⟩ := by
  simp [exec_pdudec_cons, answered_inj, eq_comm]

/-- Settles O8: on a nonempty input PDUDEC gives one PDU, and PDUENC gives its bytes back where both of its tests
pass. -/
theorem pduRoundTrips : Obligations.PduRoundTrips := by
  intro s
  refine ⟨fun f payload hf hl => ?_, fun b => ?_⟩
  · exact ⟨_, exec_pduenc_of_ok (pduEncode_ok hf hl) s, exec_pdudec_cons f payload s⟩
  · cases b with
    | nil => simp [exec_pdudec_nil, answered_inj]
    | cons f payload =>
      simp only [exec_pdudec_answers_iff, exec_pduenc_answers_iff, exists_eq_left, pduEncode_eq_ok_iff, and_true,
        List.length_cons, List.getElem?_cons_zero, ne_eq, Option.some.injEq]
      constructor
      · rintro ⟨hf, hl⟩
        exact ⟨by omega, by omega, hf⟩
      · rintro ⟨-, hl, hf⟩
        exact ⟨hf, by omega⟩

/-! ## Headers and envelopes -/

/-- HDRDEC inverts HDRENC, whatever follows the seven bytes (R124). -/
theorem headerDecode_headerEncode (h : Header) (rest : List Byte) : headerDecode (headerEncode h ++ rest) = .ok h := by
  simp [headerEncode, be16, headerDecode]

/-- HDRENC gives back the first seven bytes that HDRDEC read (R124). -/
theorem headerDecode_ok_of_le {b : List Byte} (hb : 7 ≤ b.length) :
    ∃ h, headerDecode b = .ok h ∧ headerEncode h = b.take 7 := by
  match b, hb with
  | b0 :: b1 :: b2 :: b3 :: b4 :: b5 :: b6 :: rest, _ =>
    exact ⟨_, headerDecode_cons b0 b1 b2 b3 b4 b5 b6 rest, by simp [headerEncode_mk]⟩

/-- ENVDEC inverts ENVENC (R125). -/
theorem envelopeDecode_headerEncode (h : Header) (f : Byte) (payload : List Byte) :
    envelopeDecode (headerEncode h ++ f :: payload) = .ok (h, ⟨f, payload⟩) := by
  simp [headerEncode, be16, envelopeDecode_cons]

/-- Settles O13: each of the three round trips of the pure codecs, through the commands that run them. -/
theorem headerAndEnvelopeRoundTrips : Obligations.HeaderAndEnvelopeRoundTrips := by
  intro s
  refine ⟨?header, ?bytes, ?envelope⟩
  case header =>
    intro h
    have hdec := headerDecode_headerEncode h []
    rw [List.append_nil] at hdec
    exact ⟨_, exec_hdrenc h s, exec_hdrdec_of_ok hdec s⟩
  case bytes =>
    intro b hb
    obtain ⟨h, hdec, henc⟩ := headerDecode_ok_of_le hb
    exact ⟨h, exec_hdrdec_of_ok hdec s, by rw [exec_hdrenc, henc]⟩
  case envelope =>
    intro h f payload hf hl
    exact ⟨_, exec_envenc_of_ok (pduEncode_ok hf hl) h s,
      exec_envdec_of_ok (envelopeDecode_headerEncode h f payload) s⟩

/-! ## The stages -/

theorem completeWith_answers {α : Type} (value : α → Value) (r : Except ErrKind α) (s : State) :
    ∃ result, completeWith value r s = .next (answered s result) := by
  cases r <;> exact ⟨_, rfl⟩

/-- Settles O14: five stages always complete, five end in a value or an error, and UNPKB checks its count. -/
theorem stagesTouchNoState : Obligations.StagesTouchNoState := by
  intro i s hstage
  cases i <;> simp only [isStage, Bool.false_eq_true] at hstage
  case unpkb bytes qty =>
    by_cases h : qty ≤ 8 * bytes.length
    · exact .inl ⟨_, exec_unpkb_of_le h s⟩
    · exact .inr ⟨bytes, qty, rfl, Nat.not_le.mp h, exec_unpkb_of_lt (Nat.not_le.mp h) s⟩
  case w2b words => exact .inl ⟨_, exec_w2b words s⟩
  case b2w bytes => exact .inl ⟨_, exec_b2w bytes s⟩
  case packb bits => exact .inl ⟨_, exec_packb bits s⟩
  case hdrenc h => exact .inl ⟨_, exec_hdrenc h s⟩
  case exclbl code => exact .inl ⟨_, exec_exclbl code s⟩
  case pduenc pdu => exact .inl (completeWith_answers _ _ s)
  case pdudec bytes => exact .inl (completeWith_answers _ _ s)
  case hdrdec bytes => exact .inl (completeWith_answers _ _ s)
  case envenc h pdu => exact .inl (completeWith_answers _ _ s)
  case envdec bytes => exact .inl (completeWith_answers _ _ s)

end Sys2Proof.Machine
end

section
/-! PROOFS. The numbers and classes of results and categories (spec/45_taxonomy.md R201, spec/60_exceptions.md R210,
R211). -/

namespace Sys2Proof.Machine

open Sys2Proof.Safety

/-- A listed code is its category's own number (R201). -/
theorem categoryOf_number_of_listed {code : Byte} (h : code.toNat ∈ [1, 2, 3, 4, 5, 6, 8, 10, 11]) :
    (categoryOf code).number = code.toNat := by
  simp only [List.mem_cons, List.not_mem_nil, or_false] at h
  unfold categoryOf
  rcases h with h | h | h | h | h | h | h | h | h <;> rw [h] <;> rfl

/-- Settles O40: a listed code has its own number, and every other code is unknown, number 0. -/
theorem categoryNumbers : Obligations.CategoryNumbers := by
  intro code s
  refine ⟨categoryOf code, exec_exclbl code s, ?_⟩
  split
  case isTrue h => exact categoryOf_number_of_listed h
  case isFalse h => rw [categoryOf_of_unlisted h]; rfl

/-- Settles O41: the class of each of the twelve kinds, read off the table. -/
theorem errorClasses : Obligations.ErrorClasses := by
  intro k
  cases k <;> simp [ErrKind.errClass]

theorem number_bounds (k : ErrKind) : 1 ≤ k.number ∧ k.number ≤ 12 := by
  cases k <;> simp [ErrKind.number]

/-- The kind that a number tells: `none` for 12, whose kind carries data, and for no number of R210. -/
def kindOfNumber : Nat → Option ErrKind
  | 1 => some .invalidFunctionCode
  | 2 => some .payloadTooLarge
  | 3 => some .truncatedPdu
  | 4 => some .truncatedHeader
  | 5 => some .truncatedEnvelope
  | 6 => some .connectionError
  | 7 => some .notConnected
  | 8 => some .writeError
  | 9 => some .readError
  | 10 => some .transactionMismatch
  | 11 => some .unexpectedCoilCount
  | _ => none

/-- The number of a kind without data gives the kind back; the number of the one with data gives none. -/
theorem kindOfNumber_number (k : ErrKind) :
    kindOfNumber k.number = some k ∨
      kindOfNumber k.number = none ∧ ∃ code exception, k = .protocolException code exception := by
  cases k with
  | protocolException code exception => exact .inr ⟨rfl, code, exception, rfl⟩
  | _ => exact .inl rfl

/-- Settles O42: the numbers lie in their range, and each gives its kind back. -/
theorem statusNumbersTellTheKind : Obligations.StatusNumbersTellTheKind := by
  refine ⟨fun _ => rfl, number_bounds, fun k k' h => ?_, rfl⟩
  replace h : kindOfNumber k.number = kindOfNumber k'.number := congrArg kindOfNumber h
  rcases kindOfNumber_number k with hk | ⟨hk, c, e, rfl⟩ <;>
    rcases kindOfNumber_number k' with hk' | ⟨hk', c', e', rfl⟩
  · left
    rw [hk, hk'] at h
    exact Option.some.inj h
  · rw [hk, hk'] at h
    cases h
  · rw [hk, hk'] at h
    cases h
  · exact .inr ⟨c, e, c', e', rfl, rfl⟩

end Sys2Proof.Machine
end

section
/-! PROOFS. How SEND and the operations end (spec/43_transport.md R135, R140 to R147, spec/30_encoding.md R58): what
each shared operation answers where the link's answer is known, and the statement about each outcome. -/

namespace Sys2Proof.Machine

open Sys2Proof.Safety

/-! ## One equation per answer of the link -/

theorem sendOpen_of_nil {s : State} (h : s.connectIn = []) (finish : Finish) (p : List Byte) :
    sendOpen finish p s = .next (s.await (.opening finish p)) := by
  simp only [sendOpen, linkConnect, h, wait]

theorem sendOpen_of_failed {s : State} {rest : List ConnectAnswer} (h : s.connectIn = .failed :: rest)
    (finish : Finish) (p : List Byte) :
    sendOpen finish p s = .next (answered
      { s with connectIn := rest, trace := s.trace ++ [.connect .failed] } (.err .connectionError)) := by
  simp only [sendOpen, linkConnect, h, raise_eq, reduceCtorEq, if_false]

theorem sendWrite_of_nil {s : State} (h : s.writeIn = []) (finish : Finish) (tid : Word) (e : List Byte) :
    sendWrite finish tid e s = .next (s.await (.writing finish tid e)) := by
  simp only [sendWrite, linkWrite, h, wait]

theorem sendWrite_of_failed {s : State} {o : Bool} {n : Nat} {rest : List WriteAnswer}
    (h : s.writeIn = .failed o n :: rest) (finish : Finish) (tid : Word) (e : List Byte) :
    sendWrite finish tid e s = .next (answered
      { s with
        link := reported o, writeIn := rest, rxQueue := if o then s.rxQueue else [],
        trace := s.trace ++ [.write e (.failed o n)] } (.err .writeError)) := by
  simp only [sendWrite, linkWrite, h, raise_eq]
  rfl

theorem sendRead_of_nil {s : State} (h : s.readIn = []) (finish : Finish) (tid : Word) :
    sendRead finish tid s = .next (s.await (.reading finish tid)) := by
  simp only [sendRead, linkRead, h, wait]

theorem sendRead_of_fails {s : State} {arrived : List Byte} {o : Bool} {rest : List ReadDraw}
    (h : s.readIn = .fails arrived o :: rest) (finish : Finish) (tid : Word) :
    sendRead finish tid s = .next (answered
      { s with
        link := reported o, readIn := rest, rxQueue := if o then s.rxQueue ++ arrived else [],
        trace := s.trace ++ [.read (.failed o)] } (.err .readError)) := by
  simp only [sendRead, linkRead, h, readFrom, raise_eq]
  rfl

/-- A read that may return no byte, or finds none, is an empty read (R39). -/
theorem sendRead_of_empty {s : State} {arrived : List Byte} {n : Nat} {o : Bool} {rest : List ReadDraw}
    (h : s.readIn = .returns arrived n o :: rest) (hn : n = 0 ∨ s.rxQueue ++ arrived = [])
    (finish : Finish) (tid : Word) :
    sendRead finish tid s = .next (answered
      { s with
        link := reported o, readIn := rest, rxQueue := if o then s.rxQueue ++ arrived else [],
        trace := s.trace ++ [.read (.empty o)] } (.err .readError)) := by
  have hnone : (s.rxQueue ++ arrived).take (min n Config.rxMax) = [] := by
    rcases hn with rfl | hq
    · simp
    · simp [hq]
  simp only [sendRead, linkRead, h, readFrom, hnone, if_true, raise_eq]
  rfl

theorem connectOpen_of_nil {s : State} (h : s.connectIn = []) : connectOpen s = .next (s.await .connect) := by
  simp only [connectOpen, linkConnect, h, wait]

theorem connectOpen_of_failed {s : State} {rest : List ConnectAnswer} (h : s.connectIn = .failed :: rest) :
    connectOpen s = .next (answered
      { s with connectIn := rest, trace := s.trace ++ [.connect .failed] } (.err .connectionError)) := by
  simp only [connectOpen, linkConnect, h, raise_eq, reduceCtorEq, if_false]

theorem connectOpen_of_opened {s : State} {rest : List ConnectAnswer} (h : s.connectIn = .opened :: rest) :
    connectOpen s = .next (answered
      { s with link := .connected, connectIn := rest, rxQueue := [], trace := s.trace ++ [.connect .opened] }
      (.ok .nothing)) := by
  simp only [connectOpen, linkConnect, h, complete_eq, if_true]
  rfl

theorem exec_connect_of_disconnected {s : State} (h : s.link = .disconnected) : exec .connect s = connectOpen s := by
  simp only [exec, execCONNECT, h]

/-- Settles O15: a connected session refuses; else the answer of `LinkConnect`, or its absence, decides. -/
theorem connectOutcomes : Obligations.ConnectOutcomes := by
  intro s rest
  refine ⟨fun hl => ?connected, fun hl hc => ?opened, fun hl hc => ?failed, fun hl hc => ?waits⟩
  case connected => simp only [exec, execCONNECT, hl]
  case opened => rw [exec_connect_of_disconnected hl, connectOpen_of_opened hc]
  case failed => rw [exec_connect_of_disconnected hl, connectOpen_of_failed hc]
  case waits => rw [exec_connect_of_disconnected hl, connectOpen_of_nil hc]; rfl

/-! ## From the command to the step that decides -/

theorem sendConnected_of_disconnected {s : State} (h : s.link = .disconnected) (finish : Finish) (p : List Byte) :
    sendConnected finish p s = sendOpen finish p s := by
  simp only [sendConnected, h]

/-- A PDU that does not encode ends the exchange before step 2 (R146). -/
theorem exchange_of_error {pdu : Pdu} {k : ErrKind} (h : pduEncode pdu = .error k) (finish : Finish) (s : State) :
    exchange finish pdu s = .next (answered s (.err k)) := by
  simp only [exchange, h, raise_eq]

/-- SEND and the operations, with a PDU that encodes, are step 2 and the rest of one exchange. -/
theorem exec_sendConnected {i : Instr} {pdu : Pdu} (h : requestPdu i = some pdu) (hf : pdu.function ≠ 0)
    (hl : pdu.payload.length ≤ 252) :
    ∃ finish, ∀ s, exec i s = sendConnected finish (pdu.function :: pdu.payload) s := by
  obtain ⟨finish, -, hexec, -, -⟩ := exec_exchange i pdu h
  exact ⟨finish, fun s => by rw [hexec, exchange_ok hf hl]⟩

/-- With the link open, steps 3 to 6 write the request with the next transaction id. -/
theorem sendConnected_of_linkReady {s t : State} (h : LinkReady s t) (finish : Finish) (p : List Byte) :
    sendConnected finish p s =
      sendWrite finish (s.txn + 1) (requestEnvelope (s.txn + 1) s.unit p) t.nextTxn := by
  obtain ⟨htxn, hunit, -⟩ := linkReady_fields h
  rw [linkReady_sendConnected h, sendIssue_eq, htxn, hunit]

theorem wrote_fields {s t : State} {p : List Byte} (h : Wrote s p t) :
    t.link = s.link ∧ t.txn = s.txn + 1 ∧ t.unit = s.unit ∧ t.rxQueue = s.rxQueue ∧ t.readIn = s.readIn := by
  obtain ⟨rest, -, rfl⟩ := h
  exact ⟨rfl, rfl, rfl, rfl, rfl⟩

/-- With the request written, step 7 reads. -/
theorem sendConnected_of_wrote {s s0 s1 : State} {p : List Byte} (h0 : LinkReady s s0) (h1 : Wrote s0 p s1)
    (finish : Finish) : sendConnected finish p s = sendRead finish (s.txn + 1) s1 := by
  obtain ⟨htxn, -⟩ := linkReady_fields h0
  obtain ⟨-, htxn1, -⟩ := wrote_fields h1
  rw [linkReady_sendConnected h0, wrote_sendIssue h1, htxn1, htxn]

/-! ## The statements -/

/-- Settles O17: PDUENC's two errors, each before any link call. -/
theorem encodeErrorsBeforeAnyIO : Obligations.EncodeErrorsBeforeAnyIO := by
  rintro i ⟨f, payload⟩ s h
  obtain ⟨finish, -, hexec, -, -⟩ := exec_exchange i _ h
  refine ⟨?zero, fun hf hl => ?tooLong⟩
  case zero =>
    rintro rfl
    rw [hexec, exchange_of_error (pduEncode_zero payload)]
  case tooLong => rw [hexec, exchange_of_error (pduEncode_tooLong hf hl)]

/-- Settles O19: step 2 on a disconnected session hands the failure on, before step 3 advances the counter. -/
theorem implicitConnectFailure : Obligations.ImplicitConnectFailure := by
  intro i pdu s rest h hf hl hlink hc
  obtain ⟨finish, hexec⟩ := exec_sendConnected h hf hl
  rw [hexec, sendConnected_of_disconnected hlink, sendOpen_of_failed hc]

/-- Settles O20: step 6 fails on the state that step 3 left. -/
theorem writeFailureOutcome : Obligations.WriteFailureOutcome := by
  intro i pdu s t o n rest h hf hl hready hw
  obtain ⟨finish, hexec⟩ := exec_sendConnected h hf hl
  obtain ⟨htxn, -, hwriteIn, -⟩ := linkReady_fields hready
  rw [hexec, sendConnected_of_linkReady hready, sendWrite_of_failed (s := t.nextTxn) (hwriteIn.trans hw)]
  simp only [State.nextTxn, htxn]

/-- Settles O21: step 7 fails, or returns no byte, on the state that the write left. -/
theorem readFailureOutcome : Obligations.ReadFailureOutcome := by
  intro i pdu s s0 s1 arrived o n rest h hf hl h0 h1
  obtain ⟨finish, hexec⟩ := exec_sendConnected h hf hl
  rw [hexec, sendConnected_of_wrote h0 h1]
  exact ⟨fun hr => sendRead_of_fails hr finish _, fun hr hn => sendRead_of_empty hr hn finish _⟩

/-- Settles O22: step 8 is ENVDEC, whose only error is its length test. -/
theorem shortReadIsTruncatedEnvelope : Obligations.ShortReadIsTruncatedEnvelope := by
  intro i pdu s t b h hf hl hex hb
  obtain ⟨finish, hexec⟩ := exec_sendConnected h hf hl
  rw [hexec, exchanged_sendConnected hex]
  simp only [sendCheck, envelopeDecode_short hb, raise_eq]

/-- Settles O23: step 9 compares the id before anything is done with the PDU. -/
theorem otherIdIsTransactionMismatch : Obligations.OtherIdIsTransactionMismatch := by
  intro i pdu s t t1 t0 x1 x0 l1 l0 u f payload h hf hl hex hid
  obtain ⟨finish, hexec⟩ := exec_sendConnected h hf hl
  have hne : u16be t1 t0 ≠ s.txn + 1 := fun he => hid (by rw [← he, u16be_toNat])
  rw [hexec, exchanged_sendConnected hex]
  simp only [sendCheck, envelopeDecode_cons, if_pos hne, raise_eq]

/-- Settles O24: SEND's finish is to hand the PDU over. -/
theorem sendReturnsTheResponsePdu : Obligations.SendReturnsTheResponsePdu := by
  intro s t fn f request payload hfn hl hre
  have hexec : exec (.send ⟨fn, request⟩) s = exchange .send ⟨fn, request⟩ s := rfl
  rw [hexec, exchange_ok hfn hl, replied_sendConnected hre]
  rfl

end Sys2Proof.Machine
end

section
/-! PROOFS. How an exchange that has ended can have ended (spec/43_transport.md R148, spec/60_exceptions.md R216):
its result, its link events, S.LINK and S.TXN, said once; and the statements that follow. -/

namespace Sys2Proof.Machine

open Sys2Proof.Safety

/-- The rows of R148 after a PDU has been encoded: the result and the link events of an exchange from `s` that has
ended in `t`, where `e` is the request envelope. -/
inductive ExchangeEnded (s t : State) (e : List Byte) : Result → List LinkEvent → Prop
  | connectFailed (hs : s.link = .disconnected) (hl : t.link = .disconnected) (htxn : t.txn = s.txn) :
    ExchangeEnded s t e (.err .connectionError) [.connect .failed]
  | writeFailed (o : Bool) (n : Nat) (hl : t.link = reported o) (htxn : t.txn = s.txn + 1) :
    ExchangeEnded s t e (.err .writeError) (openingEvents s.link ++ [.write e (.failed o n)])
  | readFailed (a : ReadAnswer) (o : Bool) (ha : a = .empty o ∨ a = .failed o) (hl : t.link = reported o)
      (htxn : t.txn = s.txn + 1) :
    ExchangeEnded s t e (.err .readError) (openingEvents s.link ++ [.write e .written, .read a])
  | responded (r : Result) (b : List Byte) (hr : r.afterRead = true) (hl : t.link = .connected)
      (htxn : t.txn = s.txn + 1) :
    ExchangeEnded s t e r (openingEvents s.link ++ [.write e .written, .read (.data b)])

/-- The results and the trace after steps 2 to 6. -/
theorem linkReady_wrote_observed {s s0 s1 : State} {p : List Byte} (h0 : LinkReady s s0) (h1 : Wrote s0 p s1) :
    s1.results = s.results ∧
      s1.trace = s.trace ++ (openingEvents s.link ++
        [.write (requestEnvelope (s.txn + 1) s.unit p) .written]) := by
  obtain ⟨htxn, hunit, -, -, -, -, -, hresults, htrace⟩ := linkReady_fields h0
  obtain ⟨rest, -, rfl⟩ := h1
  exact ⟨hresults, by simp [htrace, htxn, hunit]⟩

/-- Every end of an exchange that leaves nothing in flight is one of the rows. -/
theorem ExchangeEnd.ended {p : List Byte} {s t : State} {finish : Finish} (h : ExchangeEnd p s finish t)
    (hidle : t.inFlight = none) :
    ∃ r evs, t.results = s.results ++ [r] ∧ t.trace = s.trace ++ evs ∧
      ExchangeEnded s t (requestEnvelope (s.txn + 1) s.unit p) r evs := by
  cases h with
  | opening hl hc ht => rw [ht] at hidle; cases hidle
  | writing s0 h0 hw ht => rw [ht] at hidle; cases hidle
  | reading s0 s1 h0 h1 hr ht => rw [ht] at hidle; cases hidle
  | connectFails rest hl hc ht =>
    subst ht
    exact ⟨_, _, rfl, rfl, .connectFailed hl hl rfl⟩
  | writeFails s0 o n rest h0 hw ht =>
    obtain ⟨-, -, -, -, -, -, -, hresults, htrace⟩ := linkReady_fields h0
    subst ht
    exact ⟨_, _, by simp [answered, hresults], by simp [answered, htrace], .writeFailed o n rfl rfl⟩
  | readFails s0 s1 s2 a o h0 h1 h2 ht =>
    obtain ⟨hresults, htrace⟩ := linkReady_wrote_observed h0 h1
    obtain ⟨-, htxn1, -⟩ := wrote_fields h1
    obtain ⟨d, rest, -, ha, rfl⟩ := h2
    subst ht
    exact ⟨_, _, by simp [answered, hresults], by simp [answered, htrace],
      .readFailed a o ha.symm rfl (by simp [answered, htxn1, (linkReady_fields h0).1])⟩
  | done s0 s1 s2 b r h0 h1 h2 hr ht =>
    obtain ⟨hresults, htrace⟩ := linkReady_wrote_observed h0 h1
    obtain ⟨hlink1, htxn1, -⟩ := wrote_fields h1
    obtain ⟨arrived, n, o, rest, -, -, -, rfl⟩ := h2
    subst ht
    exact ⟨_, _, by simp [answered, hresults], by simp [answered, htrace],
      .responded r b hr (by simp [answered, hlink1, linkReady_link h0])
        (by simp [answered, htxn1, (linkReady_fields h0).1])⟩

/-- A command with a request PDU that ends either ends in one of PDUENC's errors, with no link call, or in a row. -/
theorem exec_ended {i : Instr} {pdu : Pdu} {s t : State} (h : requestPdu i = some pdu)
    (hexec : exec i s = .next t) (hidle : t.inFlight = none) :
    (∃ k, (k = .invalidFunctionCode ∨ k = .payloadTooLarge) ∧ t = answered s (.err k)) ∨
    (∃ r evs, t.results = s.results ++ [r] ∧ t.trace = s.trace ++ evs ∧
      ExchangeEnded s t (requestEnvelope (s.txn + 1) s.unit (pdu.function :: pdu.payload)) r evs) := by
  obtain ⟨finish, -, hexchange, -, -⟩ := exec_exchange i pdu h
  rw [hexchange] at hexec
  rcases exchange_cases hexec with ⟨-, rfl⟩ | ⟨-, -, rfl⟩ | ⟨-, -, hend⟩
  · exact .inl ⟨_, .inl rfl, rfl⟩
  · exact .inl ⟨_, .inr rfl, rfl⟩
  · exact .inr (hend.ended hidle)

/-! ## The array limits -/

/-- No format belongs to the function code 0 (R62). -/
theorem function_ne_zero_of_finishWf {function : Byte} {format : RespFormat}
    (h : finishWf (.operation function format) = true) : function ≠ 0 := by
  rintro rfl
  cases format <;> simp [finishWf] at h

theorem operation_function_ne_zero {i : Instr} {pdu : Pdu} {format : RespFormat} (h : requestPdu i = some pdu)
    (hformat : responseFormat i = some format) : pdu.function ≠ 0 := by
  obtain ⟨finish, hwf, -, -, hfinish⟩ := exec_exchange i pdu h
  rw [hfinish format hformat] at hwf
  exact function_ne_zero_of_finishWf hwf

/-- The length test of PDUENC is the only way to this error. -/
theorem exec_payloadTooLarge_iff (i : Instr) (s : State) {pdu : Pdu} {format : RespFormat}
    (h : requestPdu i = some pdu) (hformat : responseFormat i = some format) :
    exec i s = .next (answered s (.err .payloadTooLarge)) ↔ 252 < pdu.payload.length := by
  have hf := operation_function_ne_zero h hformat
  refine ⟨fun hexec => ?_, fun hl => (encodeErrorsBeforeAnyIO i pdu s h).2 hf hl⟩
  obtain ⟨finish, -, hexchange, -, -⟩ := exec_exchange i pdu h
  rw [hexchange] at hexec
  rcases exchange_cases hexec with ⟨hf0, -⟩ | ⟨-, hl, -⟩ | ⟨-, -, hend⟩
  · exact absurd hf0 hf
  · exact hl
  · obtain ⟨r, evs, hresults, -, hended⟩ := hend.ended rfl
    obtain rfl : Result.err .payloadTooLarge = r := by simpa [answered] using hresults
    cases hended with
    | responded _ b hr => cases hr

/-- Settles O18: the payload of each of the four requests as a number of bytes. -/
theorem arrayLimits : Obligations.ArrayLimits := by
  intro s a b c words bits
  refine ⟨?wrmreg, ?wrmcoil, ?diag, ?rwmreg, ?wordBytes, ?bitBytes⟩
  case wrmreg =>
    rw [exec_payloadTooLarge_iff (.wrmreg a words) s rfl rfl]
    simp only [List.length_append, List.length_singleton, be16_length, wordsToBytes_length]
    omega
  case wrmcoil =>
    rw [exec_payloadTooLarge_iff (.wrmcoil a bits) s rfl rfl]
    simp only [List.length_append, List.length_singleton, be16_length, packBits_length]
    omega
  case diag =>
    rw [exec_payloadTooLarge_iff (.diag a words) s rfl rfl]
    simp only [List.length_append, be16_length, wordsToBytes_length]
    omega
  case rwmreg =>
    rw [exec_payloadTooLarge_iff (.rwmreg a b c words) s rfl rfl]
    simp only [List.length_append, List.length_singleton, be16_length, wordsToBytes_length]
    omega
  case wordBytes => rw [wordsToBytes_length]; omega
  case bitBytes => rw [packBits_length]; omega

/-! ## The table of outcomes, and what the peer has received -/

/-- Settles O25: the two encoding errors, then the table's other rows. -/
theorem outcomeTable : Obligations.OutcomeTable := by
  intro i pdu s t h hexec hidle
  rcases exec_ended h hexec hidle with ⟨k, hk, rfl⟩ | ⟨r, evs, hresults, htrace, hended⟩
  · refine ⟨.err k, [], rfl, (List.append_nil _).symm, ?_⟩
    rcases hk with rfl | rfl <;> exact ⟨rfl, rfl, rfl⟩
  · refine ⟨r, evs, hresults, htrace, ?_⟩
    cases hended with
    | connectFailed hs hl htxn => exact ⟨hs, rfl, hl, htxn⟩
    | writeFailed o n hl htxn => exact ⟨_, o, n, rfl, hl, htxn⟩
    | readFailed a o ha hl htxn => exact ⟨_, a, o, ha, rfl, hl, htxn⟩
    | responded _ b hr hl htxn =>
      cases r with
      | ok v => exact ⟨_, b, rfl, hl, htxn⟩
      | err k => cases k <;> cases hr <;> exact ⟨_, b, rfl, hl, htxn⟩

theorem peerReceives_openingEvents_append (l : LinkState) (evs : List LinkEvent) :
    peerReceives (openingEvents l ++ evs) = peerReceives evs := by
  cases l <;> rfl

theorem peerReceives_written_read (e : List Byte) (a : ReadAnswer) :
    peerReceives [.write e .written, .read a] = e := by
  simp [peerReceives]

/-- Settles O26: only the write event of each row reaches the peer. -/
theorem whatThePeerHasReceived : Obligations.WhatThePeerHasReceived := by
  intro i pdu s t h hexec hidle
  rcases exec_ended h hexec hidle with ⟨k, hk, rfl⟩ | ⟨r, evs, hresults, htrace, hended⟩
  · refine ⟨.err k, [], rfl, (List.append_nil _).symm, ?_⟩
    rcases hk with rfl | rfl <;> rfl
  · refine ⟨r, evs, hresults, htrace, ?_⟩
    cases hended with
    | connectFailed hs hl htxn => rfl
    | writeFailed o n hl htxn =>
      simp [peerReceives_openingEvents_append, peerReceives, List.take_prefix]
    | readFailed a o ha hl htxn =>
      simp only [peerReceives_openingEvents_append, peerReceives_written_read]
    | responded _ b hr hl htxn =>
      have hall := (peerReceives_openingEvents_append s.link _).trans (peerReceives_written_read
        (requestEnvelope (s.txn + 1) s.unit (pdu.function :: pdu.payload)) (.data b))
      cases r with
      | ok v => exact hall
      | err k => cases k <;> cases hr <;> exact hall

end Sys2Proof.Machine
end

section
/-! PROOFS. State updates that the commands cannot see: where an update `g` of the state before a command goes
through every shared operation, the command's outcome is the same up to an update `g'` of the state after it. What
is in flight (overwritten by every end of a command) and what has been observed (R18) are such parts of the state. -/

namespace Sys2Proof.Machine

open Sys2Proof.Safety

/-- The outcome with `g` applied to its next state. -/
def mapNext (g : State → State) : Out → Out
  | .next t => .next (g t)
  | .fault r => .fault r
  | .refused r => .refused r

theorem mapNext_id (o : Out) : mapNext id o = o := by cases o <;> rfl

/-- `g` goes through the state updates and the link primitives, and becomes `g'` where a command ends or waits. -/
structure Transparent (g g' : State → State) : Prop where
  link : ∀ s, (g s).link = s.link
  txn : ∀ s, (g s).txn = s.txn
  unit : ∀ s, (g s).unit = s.unit
  deliver : ∀ s r, (g s).deliver r = g' (s.deliver r)
  await : ∀ s f, (g s).await f = g' (s.await f)
  setLink : ∀ s l, (g s).setLink l = g (s.setLink l)
  nextTxn : ∀ s, (g s).nextTxn = g s.nextTxn
  linkConnect : ∀ s, linkConnect (g s) = (linkConnect s).map (Prod.map id g)
  linkWrite : ∀ b s, linkWrite b (g s) = (linkWrite b s).map (Prod.map id g)
  linkRead : ∀ max s, linkRead max (g s) = (linkRead max s).map (Prod.map id g)
  linkClose : ∀ s, linkClose (g s) = g (linkClose s)

namespace Transparent

variable {g g' : State → State} (hg : Transparent g g')

include hg

/-! ## The ends of a command -/

theorem complete (r : Result) (s : State) : complete r (g s) = mapNext g' (complete r s) := by
  simp only [Machine.complete, hg.deliver, mapNext]

theorem raise (k : ErrKind) (s : State) : raise k (g s) = mapNext g' (raise k s) := hg.complete (.err k) s

theorem wait (f : InFlight) (s : State) : wait f (g s) = mapNext g' (wait f s) := by
  simp only [Machine.wait, hg.await, mapNext]

theorem completeWith {α : Type} (value : α → Value) (r : Except ErrKind α) (s : State) :
    completeWith value r (g s) = mapNext g' (completeWith value r s) := by
  cases r with
  | ok v => exact hg.complete _ s
  | error k => exact hg.raise k s

/-! ## The exchange -/

theorem finishExchange (finish : Finish) (rsp : Pdu) (s : State) :
    finishExchange finish rsp (g s) = mapNext g' (finishExchange finish rsp s) := by
  cases finish with
  | send => exact hg.complete _ s
  | operation function format =>
    simp only [Machine.finishExchange]
    split
    · split
      · rfl
      · exact hg.raise _ s
    · split
      · rfl
      · exact hg.complete _ s

theorem sendCheck (finish : Finish) (tid : Word) (b : List Byte) (s : State) :
    sendCheck finish tid b (g s) = mapNext g' (sendCheck finish tid b s) := by
  simp only [Machine.sendCheck]
  split
  · exact hg.raise _ s
  · split
    · exact hg.raise _ s
    · exact hg.finishExchange finish _ s

theorem sendRead (finish : Finish) (tid : Word) (s : State) :
    sendRead finish tid (g s) = mapNext g' (sendRead finish tid s) := by
  simp only [Machine.sendRead, hg.linkRead]
  rcases Machine.linkRead Config.rxMax s with _ | ⟨a, t⟩
  · exact hg.wait _ s
  · cases a <;> simp only [Option.map_some, Prod.map_apply, id_eq, hg.setLink, hg.raise, hg.sendCheck]

theorem sendWrite (finish : Finish) (tid : Word) (e : List Byte) (s : State) :
    sendWrite finish tid e (g s) = mapNext g' (sendWrite finish tid e s) := by
  simp only [Machine.sendWrite, hg.linkWrite]
  rcases Machine.linkWrite e s with _ | ⟨a, t⟩
  · exact hg.wait _ s
  · cases a <;> simp only [Option.map_some, Prod.map_apply, id_eq, hg.setLink, hg.raise, hg.sendRead]

theorem sendIssue (finish : Finish) (p : List Byte) (s : State) :
    sendIssue finish p (g s) = mapNext g' (sendIssue finish p s) := by
  simp only [sendIssue_eq, hg.txn, hg.unit, hg.nextTxn, hg.sendWrite]

theorem sendOpen (finish : Finish) (p : List Byte) (s : State) :
    sendOpen finish p (g s) = mapNext g' (sendOpen finish p s) := by
  simp only [Machine.sendOpen, hg.linkConnect]
  rcases Machine.linkConnect s with _ | ⟨a, t⟩
  · exact hg.wait _ s
  · cases a <;> simp only [Option.map_some, Prod.map_apply, id_eq, hg.setLink, hg.raise, hg.sendIssue]

theorem sendConnected (finish : Finish) (p : List Byte) (s : State) :
    sendConnected finish p (g s) = mapNext g' (sendConnected finish p s) := by
  simp only [Machine.sendConnected, hg.link]
  split
  · exact hg.sendIssue finish p s
  · exact hg.sendOpen finish p s

theorem exchange (finish : Finish) (pdu : Pdu) (s : State) :
    exchange finish pdu (g s) = mapNext g' (exchange finish pdu s) := by
  simp only [Machine.exchange]
  split
  · exact hg.raise _ s
  · exact hg.sendConnected finish _ s

theorem connectOpen (s : State) : connectOpen (g s) = mapNext g' (connectOpen s) := by
  simp only [Machine.connectOpen, hg.linkConnect]
  rcases Machine.linkConnect s with _ | ⟨a, t⟩
  · exact hg.wait _ s
  · cases a <;> simp only [Option.map_some, Prod.map_apply, id_eq, hg.setLink, hg.raise, hg.complete]

theorem resume (f : InFlight) (s : State) : resume f (g s) = mapNext g' (resume f s) := by
  cases f with
  | connect => exact hg.connectOpen s
  | opening finish p => exact hg.sendOpen finish p s
  | writing finish tid e => exact hg.sendWrite finish tid e s
  | reading finish tid => exact hg.sendRead finish tid s

/-! ## Every command -/

theorem execUNPKB (bytes : List Byte) (qty : Nat) (s : State) :
    execUNPKB bytes qty (g s) = mapNext g' (execUNPKB bytes qty s) := by
  simp only [Machine.execUNPKB]
  split
  · rfl
  · exact hg.complete _ s

theorem execCONNECT (s : State) : execCONNECT (g s) = mapNext g' (execCONNECT s) := by
  simp only [Machine.execCONNECT, hg.link]
  split
  · rfl
  · exact hg.connectOpen s

theorem execCLOSE (s : State) : execCLOSE (g s) = mapNext g' (execCLOSE s) := by
  simp only [Machine.execCLOSE, hg.link, hg.linkClose, hg.setLink]
  split
  · exact hg.raise _ s
  · exact hg.complete _ _

theorem exec (i : Instr) (s : State) : exec i (g s) = mapNext g' (exec i s) := by
  cases hp : requestPdu i with
  | some pdu =>
    obtain ⟨finish, -, hexec, -, -⟩ := exec_exchange i pdu hp
    rw [hexec, hexec]
    exact hg.exchange finish pdu s
  | none =>
    cases i <;> simp only [requestPdu, reduceCtorEq] at hp
    case connect => exact hg.execCONNECT s
    case close => exact hg.execCLOSE s
    case unpkb bytes qty => exact hg.execUNPKB bytes qty s
    case w2b => exact hg.complete _ s
    case b2w => exact hg.complete _ s
    case packb => exact hg.complete _ s
    case hdrenc => exact hg.complete _ s
    case exclbl => exact hg.complete _ s
    case pduenc => exact hg.completeWith _ _ s
    case pdudec => exact hg.completeWith _ _ s
    case hdrdec => exact hg.completeWith _ _ s
    case envenc => exact hg.completeWith _ _ s
    case envdec => exact hg.completeWith _ _ s

end Transparent

/-! ## What is in flight -/

/-- A command ends the same whatever was in flight when it began. -/
theorem await_transparent (f : InFlight) : Transparent (State.await · f) id where
  link _ := rfl
  txn _ := rfl
  unit _ := rfl
  deliver _ _ := rfl
  await _ _ := rfl
  setLink _ _ := rfl
  nextTxn _ := rfl
  linkConnect s := by rcases h : s.connectIn with _ | ⟨a, rest⟩ <;> simp [linkConnect, h, State.await]
  linkWrite b s := by rcases h : s.writeIn with _ | ⟨a, rest⟩ <;> simp [linkWrite, h, State.await]
  linkRead max s := by rcases h : s.readIn with _ | ⟨d, rest⟩ <;> simp [linkRead, h, State.await]
  linkClose _ := rfl

/-- A command that waited goes on as if it had not. -/
theorem resume_await (f f' : InFlight) (s : State) : resume f (s.await f') = resume f s :=
  ((await_transparent f').resume f s).trans (mapNext_id _)

/-! ## What has been observed -/

/-- The state with `results` and `trace` observed before everything it has observed. -/
def State.observedBefore (results : List Result) (trace : List LinkEvent) (s : State) : State :=
  { s with results := results ++ s.results, trace := trace ++ s.trace }

/-- A command ends the same whatever was observed before it began. -/
theorem observedBefore_transparent (results : List Result) (trace : List LinkEvent) :
    Transparent (State.observedBefore results trace) (State.observedBefore results trace) where
  link _ := rfl
  txn _ := rfl
  unit _ := rfl
  deliver s r := by simp [State.deliver, State.observedBefore]
  await _ _ := rfl
  setLink _ _ := rfl
  nextTxn _ := rfl
  linkConnect s := by
    rcases h : s.connectIn with _ | ⟨a, rest⟩ <;> simp [linkConnect, h, State.observedBefore]
  linkWrite b s := by rcases h : s.writeIn with _ | ⟨a, rest⟩ <;> simp [linkWrite, h, State.observedBefore]
  linkRead max s := by rcases h : s.readIn with _ | ⟨d, rest⟩ <;> simp [linkRead, h, State.observedBefore]
  linkClose s := by simp [linkClose, State.observedBefore]

end Sys2Proof.Machine
end

section
/-! PROOFS. What a step does by what is on the port and in flight (spec/10_state.md R18, R22, spec/30_encoding.md R64,
spec/70_reset_and_hazards.md R240, R241), one equation per case, and the statements that say so. -/

namespace Sys2Proof.Machine

open Sys2Proof.Safety

/-! ## One equation per case -/

theorem step_of_reset {s : State} (hp : s.port = some .reset) : step s = takeReset s := by
  simp only [step, hp]

theorem step_of_idle_port {s : State} (hp : s.port = none) : step s = proceed s := by
  simp only [step, hp]

theorem step_of_second_command {s : State} {m : List Byte} {f : InFlight} (hp : s.port = some (.command m))
    (hf : s.inFlight = some f) : step s = .refused .commandWhileInFlight := by
  simp only [step, hp, fetch, hf]

theorem step_of_decoded {s : State} {m : List Byte} {i : Instr} (hp : s.port = some (.command m))
    (hf : s.inFlight = none) (hm : decode m = .ok i) : step s = exec i { s with port := none } := by
  simp only [step, hp, fetch, hf, hm]

theorem step_of_undecodable {s : State} {m : List Byte} {e : DecodeError} (hp : s.port = some (.command m))
    (hf : s.inFlight = none) (hm : decode m = .error e) : step s = .refused (refusalOf e) := by
  simp only [step, hp, fetch, hf, hm]

theorem step_of_inFlight {s : State} {f : InFlight} (hp : s.port = none) (hf : s.inFlight = some f) :
    step s = resume f s := by
  simp only [step_of_idle_port hp, proceed, hf]

theorem step_of_program {s : State} {a : HostAction} {rest : List HostAction} (hp : s.port = none)
    (hf : s.inFlight = none) (hprog : s.program = a :: rest) :
    step s = .next { s with port := some a, program := rest } := by
  simp only [step_of_idle_port hp, proceed, hf, hprog]

theorem step_of_no_program {s : State} (hp : s.port = none) (hf : s.inFlight = none) (hprog : s.program = []) :
    step s = .next s := by
  simp only [step_of_idle_port hp, proceed, hf, hprog]

/-! ## The statements -/

/-- Settles O43: the fields of `State.reset`, and the accessor that stands for S.PROTO. -/
theorem resetState : Obligations.ResetState := ⟨rfl, rfl, rfl, rfl, rfl⟩

/-- Settles O44: `takeReset` refuses a reset in the middle of a command; else it keeps what is not MBF's. -/
theorem resetStep : Obligations.ResetStep := by
  intro s hp
  rw [step_of_reset hp, takeReset]
  cases hf : s.inFlight with
  | some f => exact ⟨fun _ => rfl, nofun⟩
  | none => exact ⟨fun h => absurd rfl h, fun _ => by simp only [State.afterReset, State.reset]⟩

/-- Settles O50: the message is not even decoded. -/
theorem secondCommandRefused : Obligations.SecondCommandRefused := by
  intro s m hp hf
  obtain ⟨f, hf⟩ := Option.ne_none_iff_exists'.mp hf
  exact step_of_second_command hp hf

/-- The table has a row for no other code (R63). -/
theorem operandParser_of_unassigned {n : Nat}
    (h : n ∉ [1, 2, 3, 4, 5, 6, 7, 8, 11, 15, 16, 17, 22, 23, 24, 0xC0, 0xC1, 0xC2, 0xD0, 0xD1, 0xD2, 0xD3,
      0xE0, 0xE1, 0xE2, 0xE3, 0xE4, 0xE5, 0xF0]) : operandParser n = none := by
  unfold operandParser
  split
  case h_30 => rfl
  all_goals exact absurd (by decide) h

/-- Settles O51: a code without a row is an error of the decoder, whatever the operand bytes are. -/
theorem reservedCodesRefused : Obligations.ReservedCodesRefused := by
  intro s code operands hp hf hcode
  have hm : decode (code :: operands) = .error (.reserved code) := by
    simp only [decode, operandParser_of_unassigned hcode]
  exact step_of_undecodable hp hf hm

/-- Settles O52: the three cases of a step with nothing in flight and no reset on the port. -/
theorem stepRunsTheDecodedCommand : Obligations.StepRunsTheDecodedCommand := fun _ hf =>
  ⟨fun _ _ hp hm => step_of_decoded hp hf hm, fun _ _ hp hprog => step_of_program hp hf hprog,
    fun hp hprog => step_of_no_program hp hf hprog⟩

/-! ## No step reads what has been observed -/

theorem step_observedBefore (results : List Result) (trace : List LinkEvent) (s : State) :
    step (s.observedBefore results trace) = mapNext (State.observedBefore results trace) (step s) := by
  have hg := observedBefore_transparent results trace
  rcases hp : s.port with _ | m | _
  · rcases hf : s.inFlight with _ | f
    · rcases hprog : s.program with _ | ⟨a, rest⟩
      · rw [step_of_no_program hp hf hprog]
        exact step_of_no_program hp hf hprog
      · rw [step_of_program hp hf hprog]
        exact step_of_program hp hf hprog
    · rw [step_of_inFlight hp hf, ← hg.resume]
      exact step_of_inFlight hp hf
  · rcases hf : s.inFlight with _ | f
    · rcases hm : decode m with e | i
      · rw [step_of_undecodable hp hf hm]
        exact step_of_undecodable hp hf hm
      · rw [step_of_decoded hp hf hm, ← hg.exec]
        exact step_of_decoded hp hf hm
    · rw [step_of_second_command hp hf]
      exact step_of_second_command hp hf
  · rw [step_of_reset hp, step_of_reset (s := s.observedBefore results trace) hp]
    rcases hf : s.inFlight with _ | f <;> simp [takeReset, hf, State.observedBefore, mapNext, State.afterReset]

/-- Settles O49: the state is the one without observations, with its observations put before. -/
theorem observationsAreNeverRead : Obligations.ObservationsAreNeverRead := by
  intro s
  have hs : ({ s with results := [], trace := [] } : State).observedBefore s.results s.trace = s := by
    simp [State.observedBefore]
  have hstep := step_observedBefore s.results s.trace { s with results := [], trace := [] }
  rw [hs] at hstep
  exact ⟨fun t ht => by rw [hstep, ht]; rfl, fun r hr => by rw [hstep, hr]; rfl⟩

end Sys2Proof.Machine
end

section
/-! PROOFS. Waiting for the link (spec/20_memory.md R39, R40, spec/43_transport.md R149,
spec/70_reset_and_hazards.md R247): a waiting command steps to itself, and goes on from its link call as if it had
never waited; and what one read does to the queue. -/

namespace Sys2Proof.Machine

open Sys2Proof.Safety

/-! ## A command that still has no answer -/

theorem step_await {s : State} (hp : s.port = none) (f : InFlight) : step (s.await f) = resume f s :=
  (step_of_inFlight (s := s.await f) hp rfl).trans (resume_await f f s)

/-- Settles O27: at each of the three link calls, no answer means waiting there, and then waiting again. -/
theorem unansweredReadHangs : Obligations.UnansweredReadHangs := by
  intro i pdu s s0 s1 h hf hl
  obtain ⟨finish, hexec⟩ := exec_sendConnected h hf hl
  refine ⟨fun hlink hc => ?opening, fun h0 hw => ?writing, fun h0 h1 hr => ?reading⟩
  case opening =>
    have hwaits := sendOpen_of_nil hc finish (pdu.function :: pdu.payload)
    exact ⟨finish, by rw [hexec, sendConnected_of_disconnected hlink]; exact hwaits,
      fun hp => (step_await hp _).trans hwaits⟩
  case writing =>
    obtain ⟨htxn, -, -, -, -, hport, -⟩ := linkReady_fields h0
    have hwaits := sendWrite_of_nil (s := s0.nextTxn) hw finish (s.txn + 1)
      (requestEnvelope (s.txn + 1) s.unit (pdu.function :: pdu.payload))
    refine ⟨finish, s0.nextTxn.await (.writing finish (s.txn + 1)
      (requestEnvelope (s.txn + 1) s.unit (pdu.function :: pdu.payload))), ?_, ?_, fun hp => ?_⟩
    · simp only [State.await, State.nextTxn, htxn]
    · rw [hexec, sendConnected_of_linkReady h0, hwaits]
    · exact (step_await (s := s0.nextTxn) (hport.trans hp) _).trans hwaits
  case reading =>
    obtain ⟨htxn, -, -, -, -, hport, -⟩ := linkReady_fields h0
    obtain ⟨-, htxn1, -⟩ := wrote_fields h1
    have hport1 : s1.port = s0.port := by obtain ⟨rest, -, rfl⟩ := h1; rfl
    have hwaits := sendRead_of_nil hr finish s1.txn
    refine ⟨finish, ?_, fun hp => (step_await ((hport1.trans hport).trans hp) _).trans hwaits⟩
    rw [hexec, sendConnected_of_wrote h0 h1, ← htxn, ← htxn1]
    exact hwaits

/-! ## A command that gets its answer after it has waited -/

/-- `g` gives the state `s'`, in which the link says less, what makes it `s`, and does the same to the states that
an exchange from `s'` goes through. -/
structure Restores (s s' : State) (g : State → State) : Prop where
  start : g s' = s
  link : s'.link = s.link
  txn : s'.txn = s.txn
  unit : s'.unit = s.unit
  await : ∀ x f, g (x.await f) = (g x).await f
  nextTxn : ∀ x, g x.nextTxn = (g x).nextTxn
  linkReady : ∀ s0, LinkReady s' s0 → LinkReady s (g s0)
  wrote : ∀ s0 s1 p, LinkReady s' s0 → Wrote s0 p s1 → Wrote (g s0) p (g s1)

/-- A command without a request PDU is one of the eleven stages, or CONNECT or CLOSE. -/
theorem isStage_or_link_command {i : Instr} (h : requestPdu i = none) :
    isStage i = true ∨ i = .connect ∨ i = .close := by
  cases i <;> simp [requestPdu, isStage] at h ⊢

/-- Only CONNECT waits without a request PDU, and only on a disconnected session. -/
theorem exec_waits_connect {i : Instr} {s t : State} (h : requestPdu i = none) (hexec : exec i s = .next t)
    (hf : t.inFlight ≠ none) : i = .connect ∧ s.link = .disconnected ∧ t = s.await .connect := by
  rcases isStage_or_link_command h with hstage | rfl | rfl
  · rcases stagesTouchNoState i s hstage with ⟨r, hr⟩ | ⟨bytes, qty, -, -, hr⟩ <;> rw [hr] at hexec <;> cases hexec
    exact absurd rfl hf
  · cases hl : s.link with
    | connected => simp [exec, execCONNECT, hl] at hexec
    | disconnected =>
      rw [exec_connect_of_disconnected hl] at hexec
      rcases connectOpen_cases hexec with ⟨-, rfl⟩ | ⟨rest, -, rfl⟩ | ⟨rest, -, rfl⟩
      · exact ⟨rfl, rfl, rfl⟩
      · exact absurd rfl hf
      · exact absurd rfl hf
  · rcases execCLOSE_cases hexec with ⟨r, rfl⟩ | ⟨-, rfl⟩ <;> exact absurd rfl hf

/-- The step of a command that waited, after what the link says has been restored, is the command's own outcome. -/
theorem Restores.step_eq_exec {s s' t : State} {g : State → State} (hg : Restores s s' g) {i : Instr}
    (hp : s.port = none) (hexec : exec i s' = .next t) (hf : t.inFlight ≠ none) : step (g t) = exec i s := by
  cases hpdu : requestPdu i with
  | none =>
    obtain ⟨rfl, hl, rfl⟩ := exec_waits_connect hpdu hexec hf
    rw [hg.await, hg.start, step_await hp, exec_connect_of_disconnected (hg.link.symm.trans hl)]
    rfl
  | some pdu =>
    obtain ⟨finish, -, hexchange, -, -⟩ := exec_exchange i pdu hpdu
    rw [hexchange] at hexec
    rcases exchange_cases hexec with ⟨-, rfl⟩ | ⟨-, -, rfl⟩ | ⟨hf0, hlen, hend⟩
    · exact absurd rfl hf
    · exact absurd rfl hf
    · rw [hexchange, exchange_ok hf0 hlen]
      cases hend with
      | opening hl _ ht =>
        rw [ht, hg.await, hg.start, step_await hp, sendConnected_of_disconnected (hg.link.symm.trans hl)]
        rfl
      | writing s0 h0 _ ht =>
        have h0' := hg.linkReady s0 h0
        obtain ⟨-, -, -, -, -, hport, -⟩ := linkReady_fields h0'
        rw [ht, hg.await, hg.nextTxn, step_await (s := (g s0).nextTxn) (hport.trans hp),
          sendConnected_of_linkReady h0', hg.txn, hg.unit]
        rfl
      | reading s0 s1 h0 h1 _ ht =>
        have h0' := hg.linkReady s0 h0
        have h1' := hg.wrote s0 s1 _ h0 h1
        obtain ⟨-, -, -, -, -, hport, -⟩ := linkReady_fields h0'
        have hport1 : (g s1).port = (g s0).port := by obtain ⟨rest, -, he⟩ := h1'; rw [he]
        rw [ht, hg.await, step_await ((hport1.trans hport).trans hp), sendConnected_of_wrote h0' h1', hg.txn]
        rfl
      | connectFails _ _ _ ht => rw [ht] at hf; exact absurd rfl hf
      | writeFails _ _ _ _ _ _ ht => rw [ht] at hf; exact absurd rfl hf
      | readFails _ _ _ _ _ _ _ _ ht => rw [ht] at hf; exact absurd rfl hf
      | done _ _ _ _ _ _ _ _ _ ht => rw [ht] at hf; exact absurd rfl hf

theorem restores_connectIn (s : State) :
    Restores s { s with connectIn := [] } fun x => { x with connectIn := s.connectIn } where
  start := rfl
  link := rfl
  txn := rfl
  unit := rfl
  await _ _ := rfl
  nextTxn _ := rfl
  linkReady s0 h := by
    rcases h with ⟨hl, rfl⟩ | ⟨hl, rest, hc, rfl⟩
    · exact .inl ⟨hl, rfl⟩
    · cases hc
  wrote s0 s1 p _ h := by
    obtain ⟨rest, hw, rfl⟩ := h
    exact ⟨rest, hw, rfl⟩

theorem restores_writeIn (s : State) :
    Restores s { s with writeIn := [] } fun x => { x with writeIn := s.writeIn } where
  start := rfl
  link := rfl
  txn := rfl
  unit := rfl
  await _ _ := rfl
  nextTxn _ := rfl
  linkReady s0 h := by
    rcases h with ⟨hl, rfl⟩ | ⟨hl, rest, hc, rfl⟩
    · exact .inl ⟨hl, rfl⟩
    · exact .inr ⟨hl, rest, hc, rfl⟩
  wrote s0 s1 p h0 h := by
    obtain ⟨-, -, hwriteIn, -⟩ := linkReady_fields h0
    obtain ⟨rest, hw, -⟩ := h
    rw [hwriteIn] at hw
    cases hw

theorem restores_readIn (s : State) :
    Restores s { s with readIn := [] } fun x => { x with readIn := s.readIn } where
  start := rfl
  link := rfl
  txn := rfl
  unit := rfl
  await _ _ := rfl
  nextTxn _ := rfl
  linkReady s0 h := by
    rcases h with ⟨hl, rfl⟩ | ⟨hl, rest, hc, rfl⟩
    · exact .inl ⟨hl, rfl⟩
    · exact .inr ⟨hl, rest, hc, rfl⟩
  wrote s0 s1 p _ h := by
    obtain ⟨rest, hw, rfl⟩ := h
    exact ⟨rest, hw, rfl⟩

/-- Settles O28: each of the three lists of answers is restored by putting it back. -/
theorem waitingIsTransparent : Obligations.WaitingIsTransparent := fun _ s _ hp hf =>
  ⟨fun hexec => (restores_connectIn s).step_eq_exec hp hexec hf,
    fun hexec => (restores_writeIn s).step_eq_exec hp hexec hf,
    fun hexec => (restores_readIn s).step_eq_exec hp hexec hf⟩

/-! ## One read -/

theorem linkRead_cases {max : Nat} {s t : State} {a : ReadAnswer} (h : linkRead max s = some (a, t)) :
    ∃ d rest queue, s.readIn = d :: rest ∧ readFrom max s.rxQueue d = (a, queue) ∧
      t = { s with readIn := rest, rxQueue := queue, trace := s.trace ++ [.read a] } := by
  unfold linkRead at h
  split at h
  · cases h
  · rename_i d rest hr
    cases h
    exact ⟨d, rest, _, hr, rfl, rfl⟩

/-- Settles O29: `readFrom_cases` on the one draw that the read takes. -/
theorem readRemovesWhatItReturns : Obligations.ReadRemovesWhatItReturns := by
  intro max s t a h
  obtain ⟨d, rest, queue, hr, hread, rfl⟩ := linkRead_cases h
  refine ⟨d, rest, hr, rfl, ?_⟩
  rcases readFrom_cases max s.rxQueue d with ⟨b, hb, hne, count, o, -, htake⟩ | ⟨a', o, ha, hb⟩
  · obtain ⟨rfl, rfl⟩ := Prod.mk.inj (hb.symm.trans hread)
    have hlen : b.length ≤ max := by rw [htake, List.length_take]; omega
    have hprefix : b <+: s.rxQueue ++ arrivals d := htake ▸ List.take_prefix _ _
    exact ⟨(List.prefix_iff_eq_append.mp hprefix).symm, List.length_pos_iff.mpr hne, hlen⟩
  · obtain ⟨rfl, rfl⟩ := Prod.mk.inj (hb.symm.trans hread)
    rcases ha with rfl | rfl <;> rfl

end Sys2Proof.Machine
end

section
/-! PROOFS. The fifteen operations (spec/44_operations.md R160 to R178): an operation is SEND and then its own finish
of the response PDU; what that finish gives by the response; and the statement about each operation's response. -/

namespace Sys2Proof.Machine

open Sys2Proof.Safety

/-! ## An operation is SEND with another finish -/

/-- How SEND's part of an exchange from `s` ended in `t`, where `run` is that part for every finish: with an error,
whatever the finish, or with a response PDU, which the finish is given. -/
inductive SendPart (s : State) (run : Finish → Out) (t : State) : Prop
  | error (k : ErrKind) (hresults : t.results = s.results ++ [.err k]) (hrun : ∀ finish, run finish = .next t)
  | response (rsp : Pdu) (u : State) (hu : u.results = s.results) (ht : t = answered u (.ok (.pdu rsp)))
      (hrun : ∀ finish, run finish = finishExchange finish rsp u)

theorem sendCheck_sendPart {s t u : State} {tid : Word} {b : List Byte} (hu : u.results = s.results)
    (h : sendCheck .send tid b u = .next t) : SendPart s (fun finish => sendCheck finish tid b u) t := by
  cases hb : envelopeDecode b with
  | error k =>
    have hrun : ∀ finish, sendCheck finish tid b u = .next (answered u (.err k)) := fun finish => by
      simp only [sendCheck, hb, raise_eq]
    rw [hrun] at h
    cases h
    exact .error k (by simp [answered, hu]) hrun
  | ok e =>
    obtain ⟨hd, rsp⟩ := e
    by_cases hid : hd.transactionId ≠ tid
    · have hrun : ∀ finish, sendCheck finish tid b u = .next (answered u (.err .transactionMismatch)) :=
        fun finish => by simp only [sendCheck, hb, if_pos hid, raise_eq]
      rw [hrun] at h
      cases h
      exact .error .transactionMismatch (by simp [answered, hu]) hrun
    · have hrun : ∀ finish, sendCheck finish tid b u = finishExchange finish rsp u := fun finish => by
        simp only [sendCheck, hb, if_neg hid]
      rw [hrun] at h
      cases h
      exact .response rsp u hu rfl hrun

theorem sendRead_sendPart {s t u : State} {tid : Word} (hu : u.results = s.results)
    (h : sendRead .send tid u = .next t) (hidle : t.inFlight = none) :
    SendPart s (fun finish => sendRead finish tid u) t := by
  cases hr : u.readIn with
  | nil => rw [sendRead_of_nil hr] at h; cases h; cases hidle
  | cons d rest =>
    rcases readFrom_cases Config.rxMax u.rxQueue d with ⟨b, hb, -⟩ | ⟨a, o, ha, hb⟩
    · have hrun : ∀ finish, sendRead finish tid u = sendCheck finish tid b
          { u with
            readIn := rest, rxQueue := (u.rxQueue ++ arrivals d).drop b.length,
            trace := u.trace ++ [.read (.data b)] } := fun finish => by
        simp only [sendRead, linkRead, hr, hb]
      simp only [hrun] at h ⊢
      exact sendCheck_sendPart hu h
    · have hrun : ∀ finish, sendRead finish tid u = .next (answered
          { u with
            link := reported o, readIn := rest, rxQueue := if o then u.rxQueue ++ arrivals d else [],
            trace := u.trace ++ [.read a] } (.err .readError)) := fun finish => by
        simp only [sendRead, linkRead, hr, hb]
        rcases ha with rfl | rfl <;> rfl
      rw [hrun] at h
      cases h
      exact .error .readError (by simp [answered, hu]) hrun

theorem sendConnected_sendPart {s t : State} {p : List Byte} (h : sendConnected .send p s = .next t)
    (hidle : t.inFlight = none) : SendPart s (fun finish => sendConnected finish p s) t := by
  cases sendConnected_cases h with
  | opening hl hc ht => rw [ht] at hidle; cases hidle
  | writing s0 h0 hw ht => rw [ht] at hidle; cases hidle
  | reading s0 s1 h0 h1 hr ht => rw [ht] at hidle; cases hidle
  | connectFails rest hl hc ht =>
    refine .error .connectionError (by rw [ht]; rfl) fun finish => ?_
    rw [sendConnected_of_disconnected hl, sendOpen_of_failed hc, ht]
  | writeFails s0 o n rest h0 hw ht =>
    obtain ⟨htxn, -, -, -, -, -, -, hresults, -⟩ := linkReady_fields h0
    refine .error .writeError (by rw [ht, ← hresults]; rfl) fun finish => ?_
    rw [sendConnected_of_linkReady h0, sendWrite_of_failed (s := s0.nextTxn) hw, ht]
    simp only [State.nextTxn, htxn]
  | readFails s0 s1 s2 a o h0 h1 h2 ht =>
    simp only [sendConnected_of_wrote h0 h1] at h ⊢
    exact sendRead_sendPart (linkReady_wrote_observed h0 h1).1 h hidle
  | done s0 s1 s2 b r h0 h1 h2 hr ht =>
    simp only [sendConnected_of_wrote h0 h1] at h ⊢
    exact sendRead_sendPart (linkReady_wrote_observed h0 h1).1 h hidle

theorem exchange_sendPart {s t : State} {pdu : Pdu} (h : exchange .send pdu s = .next t)
    (hidle : t.inFlight = none) : SendPart s (fun finish => exchange finish pdu s) t := by
  cases hp : pduEncode pdu with
  | error k =>
    simp only [exchange_of_error hp] at h ⊢
    cases h
    exact .error k rfl fun _ => rfl
  | ok p =>
    simp only [exchange, hp] at h ⊢
    exact sendConnected_sendPart h hidle

/-! ## What the finish gives by the response -/

theorem finishExchange_exception_nil {function f : Byte} (h : f.toNat = function.toNat + 0x80) (format : RespFormat)
    (s : State) : finishExchange (.operation function format) ⟨f, []⟩ s = .refused .exceptionWithoutCode := by
  simp only [finishExchange, isException, decide_eq_true h, if_true]

theorem finishExchange_exception_cons {function f : Byte} (h : f.toNat = function.toNat + 0x80) (format : RespFormat)
    (e : Byte) (rest : List Byte) (s : State) :
    finishExchange (.operation function format) ⟨f, e :: rest⟩ s =
      .next (answered s (.err (.protocolException f e))) := by
  simp only [finishExchange, isException, decide_eq_true h, if_true, raise_eq]

/-- A response with another function byte than `function + 0x80` is no exception (R161). -/
theorem isException_of_ne {function f : Byte} (h : f ≠ function + 0x80) (payload : List Byte) :
    isException function ⟨f, payload⟩ = false := by
  refine decide_eq_false fun he => h (BitVec.eq_of_toNat_eq ?_)
  have hlt := f.isLt
  have h128 : (0x80 : Byte).toNat = 128 := rfl
  replace he : f.toNat = function.toNat + 128 := he
  rw [BitVec.toNat_add, h128]
  omega

/-- A response that is no exception is completed with what its decode gives. -/
theorem finishExchange_decoded {function : Byte} {format : RespFormat} {rsp : Pdu} {r : Result}
    (h : isException function rsp = false) (hd : decodeResponse format rsp.payload = some r) (s : State) :
    finishExchange (.operation function format) rsp s = .next (answered s r) := by
  simp only [finishExchange, h, Bool.false_eq_true, if_false, hd, complete_eq]

/-- Where its decode gives nothing it is refused (R178). -/
theorem finishExchange_undecoded {function : Byte} {format : RespFormat} {rsp : Pdu}
    (h : isException function rsp = false) (hd : decodeResponse format rsp.payload = none) (s : State) :
    finishExchange (.operation function format) rsp s = .refused .responseTooShort := by
  simp only [finishExchange, h, Bool.false_eq_true, if_false, hd]

theorem finishExchange_of_decode {function f : Byte} {format : RespFormat} {payload : List Byte} {r : Result}
    (h : f ≠ function + 0x80) (hd : decodeResponse format payload = some r) (s : State) :
    finishExchange (.operation function format) ⟨f, payload⟩ s = .next (answered s r) :=
  finishExchange_decoded (isException_of_ne h payload) hd s

theorem finishExchange_of_no_decode {function f : Byte} {format : RespFormat} {payload : List Byte}
    (h : f ≠ function + 0x80) (hd : decodeResponse format payload = none) (s : State) :
    finishExchange (.operation function format) ⟨f, payload⟩ s = .refused .responseTooShort :=
  finishExchange_undecoded (isException_of_ne h payload) hd s

/-- Settles O30: with SEND's result known, the operation's finish is the exception check and then its decode. -/
theorem operationIsSendThenDecode : Obligations.OperationIsSendThenDecode := by
  intro i pdu format s t h hformat hsend hidle
  obtain ⟨finish, -, hexec, -, hfinish⟩ := exec_exchange i pdu h
  rw [hexec, hfinish format hformat]
  cases exchange_sendPart hsend hidle with
  | error k hresults hrun => exact .inl ⟨k, hresults, hrun _⟩
  | response rsp u hu ht hrun =>
    subst ht
    have hnext : ∀ r, answered u r = { answered u (.ok (.pdu rsp)) with results := s.results ++ [r] } := fun r => by
      simp only [answered, hu]
    refine .inr ⟨rsp, by rw [← hu]; rfl, ?_⟩
    rw [hrun]
    obtain ⟨f, payload⟩ := rsp
    by_cases hx : f.toNat = pdu.function.toNat + 0x80
    · rw [if_pos hx]
      cases payload with
      | nil => exact finishExchange_exception_nil hx format u
      | cons e rest =>
        exact (finishExchange_exception_cons hx format e rest u).trans (congrArg Host.Outcome.next (hnext _))
    · rw [if_neg hx]
      have hno : isException pdu.function ⟨f, payload⟩ = false := decide_eq_false hx
      cases hd : decodeResponse format payload with
      | none => exact finishExchange_undecoded hno hd u
      | some r => exact (finishExchange_decoded hno hd u).trans (congrArg Host.Outcome.next (hnext r))

/-- An operation whose exchange goes through is its own finish of the response. -/
theorem exec_replied {i : Instr} {function : Byte} {request : List Byte} {format : RespFormat} {s t : State}
    {f : Byte} {payload : List Byte} (h : requestPdu i = some ⟨function, request⟩)
    (hformat : responseFormat i = some format) (hl : request.length ≤ 252)
    (hre : Replied s (function :: request) f payload t) :
    exec i s = finishExchange (.operation function format) ⟨f, payload⟩ t := by
  obtain ⟨finish, -, hexec, -, hfinish⟩ := exec_exchange i _ h
  rw [hexec, exchange_ok (operation_function_ne_zero h hformat) hl, replied_sendConnected hre,
    hfinish format hformat]

/-- Settles O31: the exception check comes first, and takes the first payload byte only. -/
theorem exceptionResponseIsProtocolException : Obligations.ExceptionResponseIsProtocolException := by
  intro i pdu format s t f payload h hformat hl hre hf
  rw [exec_replied h hformat hl hre]
  refine ⟨?empty, ?code⟩
  case empty =>
    rintro rfl
    exact finishExchange_exception_nil hf format t
  case code =>
    rintro e rest rfl
    exact finishExchange_exception_cons hf format e rest t

/-! ## The decodes -/

theorem decodeResponse_pb_of_le {qty : Nat} {data : List Byte} (c : Byte) (h : qty ≤ 8 * data.length) :
    decodeResponse (.pb qty) (c :: data) = some (.ok (.bools (bitsOf data qty))) := by
  simp only [decodeResponse, decodePB, unpackChecked_of_le h, Option.map_some]
  rfl

theorem decodeResponse_pb_short {qty : Nat} {payload : List Byte}
    (h : payload = [] ∨ 8 * (payload.length - 1) < qty) : decodeResponse (.pb qty) payload = none := by
  cases payload with
  | nil => rfl
  | cons c data =>
    have hshort : 8 * data.length < qty := by simpa using h
    simp only [decodeResponse, decodePB, unpackChecked_of_lt hshort, Option.map_none]

theorem decodeResponse_pc_short {count : Nat} {payload : List Byte} (h : payload.length < 4) :
    decodeResponse (.pc count) payload = none := by
  match payload, h with
  | [], _ => rfl
  | [_], _ => rfl
  | [_, _], _ => rfl
  | [_, _, _], _ => rfl
  | _ :: _ :: _ :: _ :: _, h => simp only [List.length_cons] at h; omega

theorem decodeResponse_pc_of_eq {count : Nat} (a1 a0 : Byte) {h l : Byte} (rest : List Byte)
    (he : 256 * h.toNat + l.toNat = count) :
    decodeResponse (.pc count) (a1 :: a0 :: h :: l :: rest) = some (.ok .nothing) := by
  simp only [decodeResponse, decodePC, u16be_toNat, he, ne_eq, not_true_eq_false, if_false]

theorem decodeResponse_pc_of_ne {count : Nat} (a1 a0 : Byte) {h l : Byte} (rest : List Byte)
    (he : 256 * h.toNat + l.toNat ≠ count) :
    decodeResponse (.pc count) (a1 :: a0 :: h :: l :: rest) = some (.err .unexpectedCoilCount) := by
  simp only [decodeResponse, decodePC, u16be_toNat, if_pos he]

theorem decodeResponse_pw0_cons (c : Byte) (data : List Byte) :
    decodeResponse .pw0 (c :: data) = some (.ok (.words (if c = 0 then [] else bytesToWords data))) := by
  by_cases hc : c = 0
  · subst hc
    rfl
  · have hpos : 0 < c.toNat := Nat.pos_of_ne_zero fun h => hc (BitVec.eq_of_toNat_eq h)
    simp only [decodeResponse, decodePW0, if_pos hpos, if_neg hc]

theorem decodeResponse_pf_of_le {payload : List Byte} (h : 4 ≤ payload.length) :
    decodeResponse .pf payload = some (.ok (.words (bytesToWords (payload.drop 4)))) := by
  match payload, h with
  | _ :: _ :: _ :: _ :: _, _ => rfl

theorem decodeResponse_pf_short {payload : List Byte} (h : payload.length < 4) :
    decodeResponse .pf payload = none := by
  match payload, h with
  | [], _ => rfl
  | [_], _ => rfl
  | [_, _], _ => rfl
  | [_, _, _], _ => rfl
  | _ :: _ :: _ :: _ :: _, h => simp only [List.length_cons] at h; omega

theorem decodeResponse_pd_of_le {payload : List Byte} (h : 2 ≤ payload.length) :
    decodeResponse .pd payload = some (.ok (.words (bytesToWords (payload.drop 2)))) := by
  match payload, h with
  | _ :: _ :: _, _ => rfl

theorem decodeResponse_pd_short {payload : List Byte} (h : payload.length < 2) :
    decodeResponse .pd payload = none := by
  match payload, h with
  | [], _ => rfl
  | [_], _ => rfl
  | _ :: _ :: _, h => simp only [List.length_cons] at h; omega

theorem decodeResponse_pg_short {payload : List Byte} (h : payload.length < 3) :
    decodeResponse .pg payload = none := by
  match payload, h with
  | [], _ => rfl
  | [_], _ => rfl
  | [_, _], _ => rfl
  | _ :: _ :: _ :: _, h => simp only [List.length_cons] at h; omega

theorem decodeResponse_pg_three (s1 s0 c : Byte) :
    decodeResponse .pg [s1, s0, c] =
      some (.ok (.commEvents (decide (0 < 256 * s1.toNat + s0.toNat)) (c.setWidth 16))) := by
  rw [← u16be_toNat]
  rfl

theorem decodeResponse_pg_four (s1 s0 c1 c0 : Byte) (rest : List Byte) :
    decodeResponse .pg (s1 :: s0 :: c1 :: c0 :: rest) =
      some (.ok (.commEvents (decide (0 < 256 * s1.toNat + s0.toNat)) (u16be c1 c0))) := by
  simp only [decodeResponse, decodePG, bytesToWords_cons_cons, u16be_toNat]

/-! ## The finish by format, where several operations share it -/

section

variable {function f : Byte} (hf : f ≠ function + 0x80) (payload : List Byte) (s : State)

include hf

theorem finishExchange_pb (qty : Nat) :
    (∀ c data, payload = c :: data → qty ≤ 8 * data.length →
      finishExchange (.operation function (.pb qty)) ⟨f, payload⟩ s =
        .next (answered s (.ok (.bools (bitsOf data qty))))) ∧
    ((payload = [] ∨ 8 * (payload.length - 1) < qty) →
      finishExchange (.operation function (.pb qty)) ⟨f, payload⟩ s = .refused .responseTooShort) := by
  refine ⟨?_, fun h => finishExchange_of_no_decode hf (decodeResponse_pb_short h) s⟩
  rintro c data rfl h
  exact finishExchange_of_decode hf (decodeResponse_pb_of_le c h) s

theorem finishExchange_pw :
    (∀ c data, payload = c :: data →
      finishExchange (.operation function .pw) ⟨f, payload⟩ s =
        .next (answered s (.ok (.words (bytesToWords data))))) ∧
    (payload = [] → finishExchange (.operation function .pw) ⟨f, payload⟩ s = .refused .responseTooShort) := by
  refine ⟨?_, ?_⟩
  · rintro c data rfl
    exact finishExchange_of_decode hf rfl s
  · rintro rfl
    exact finishExchange_of_no_decode hf rfl s

theorem finishExchange_pn :
    finishExchange (.operation function .pn) ⟨f, payload⟩ s = .next (answered s (.ok .nothing)) :=
  finishExchange_of_decode hf rfl s

end

/-! ## The statements, by operation -/

/-- Settles O32: RDCOIL and RDDI, one request format and one decode. -/
theorem readBitArrays : Obligations.ReadBitArrays := by
  intro s t addr qty f payload
  refine ⟨fun hre hf => ?rdcoil, fun hre hf => ?rddi⟩
  case rdcoil =>
    rw [exec_replied (i := .rdcoil addr qty) rfl rfl (by simp) hre]
    exact finishExchange_pb hf payload t qty.toNat
  case rddi =>
    rw [exec_replied (i := .rddi addr qty) rfl rfl (by simp) hre]
    exact finishExchange_pb hf payload t qty.toNat

/-- Settles O33: RDHR and RDIR, one request format and one decode. -/
theorem readWordArrays : Obligations.ReadWordArrays := by
  intro s t addr qty f payload
  refine ⟨fun hre hf => ?rdhr, fun hre hf => ?rdir⟩
  case rdhr =>
    rw [exec_replied (i := .rdhr addr qty) rfl rfl (by simp) hre]
    exact finishExchange_pw hf payload t
  case rdir =>
    rw [exec_replied (i := .rdir addr qty) rfl rfl (by simp) hre]
    exact finishExchange_pw hf payload t

/-- Settles O34: four request formats, and the one decode that looks at nothing. -/
theorem writesIgnoreTheResponse : Obligations.WritesIgnoreTheResponse := by
  intro s t addr v m val vals f payload
  refine ⟨fun hre hf => ?wrcoil, fun hre hf => ?wrreg, fun hlen hre hf => ?wrmreg, fun hre hf => ?maskwr⟩
  case wrcoil =>
    rw [exec_replied (i := .wrcoil addr val) rfl rfl (by cases val <;> simp) hre]
    exact finishExchange_pn hf payload t
  case wrreg =>
    rw [exec_replied (i := .wrreg addr v) rfl rfl (by simp) hre]
    exact finishExchange_pn hf payload t
  case wrmreg =>
    rw [exec_replied (i := .wrmreg addr vals) rfl rfl (by simp; omega) hre]
    exact finishExchange_pn hf payload t
  case maskwr =>
    rw [exec_replied (i := .maskwr addr v m) rfl rfl (by simp) hre]
    exact finishExchange_pn hf payload t

/-- Settles O35: the decode's three cases, too few bytes, the count sent, another count. -/
theorem writeCoilsChecksTheEchoedCount : Obligations.WriteCoilsChecksTheEchoedCount := by
  intro s t addr vals f payload hlen hre hf
  rw [exec_replied (i := .wrmcoil addr vals) rfl rfl (by simp; omega) hre]
  refine ⟨fun h => finishExchange_of_no_decode hf (decodeResponse_pc_short h) t, ?_⟩
  rintro a1 a0 h l rest rfl
  exact ⟨fun he => finishExchange_of_decode hf (decodeResponse_pc_of_eq a1 a0 rest he) t,
    fun he => finishExchange_of_decode hf (decodeResponse_pc_of_ne a1 a0 rest he) t⟩

/-- Settles O36: the decode looks at the byte count only for 0. -/
theorem readWriteRegisters : Obligations.ReadWriteRegisters := by
  intro s t raddr rqty waddr vals f payload hlen hre hf
  rw [exec_replied (i := .rwmreg raddr rqty waddr vals) rfl rfl (by simp; omega) hre]
  refine ⟨?empty, ?words⟩
  case empty =>
    rintro rfl
    exact finishExchange_of_no_decode hf rfl t
  case words =>
    rintro c data rfl
    exact finishExchange_of_decode hf (decodeResponse_pw0_cons c data) t

/-- Settles O37: the two decodes differ in how many bytes they skip. -/
theorem fifoAndDiagnostics : Obligations.FifoAndDiagnostics := by
  intro s t addr data f payload
  refine ⟨fun hre hf => ?rdfifo, fun hlen hre hf => ?diag⟩
  case rdfifo =>
    rw [exec_replied (i := .rdfifo addr) rfl rfl (by simp) hre]
    exact ⟨fun h => finishExchange_of_no_decode hf (decodeResponse_pf_short h) t,
      fun h => finishExchange_of_decode hf (decodeResponse_pf_of_le h) t⟩
  case diag =>
    rw [exec_replied (i := .diag addr data) rfl rfl (by simp; omega) hre]
    exact ⟨fun h => finishExchange_of_no_decode hf (decodeResponse_pd_short h) t,
      fun h => finishExchange_of_decode hf (decodeResponse_pd_of_le h) t⟩

/-- Settles O38: three requests without operands, each with its own decode. -/
theorem statusReads : Obligations.StatusReads := by
  intro s t f payload
  refine ⟨fun hre hf => ?rdexst, fun hre hf => ?gcec, fun hre hf => ?rptid⟩
  case rdexst =>
    rw [exec_replied (i := .rdexst) rfl rfl (Nat.zero_le _) hre]
    refine ⟨?_, ?_⟩
    · rintro rfl
      exact finishExchange_of_no_decode hf rfl t
    · rintro b rest rfl
      exact finishExchange_of_decode hf rfl t
  case gcec =>
    rw [exec_replied (i := .gcec) rfl rfl (Nat.zero_le _) hre]
    refine ⟨fun h => finishExchange_of_no_decode hf (decodeResponse_pg_short h) t, ?_, ?_⟩
    · rintro s1 s0 c rfl
      exact finishExchange_of_decode hf (decodeResponse_pg_three s1 s0 c) t
    · rintro s1 s0 c1 c0 rest rfl
      exact finishExchange_of_decode hf (decodeResponse_pg_four s1 s0 c1 c0 rest) t
  case rptid =>
    rw [exec_replied (i := .rptid) rfl rfl (Nat.zero_le _) hre]
    exact finishExchange_of_decode hf rfl t

end Sys2Proof.Machine
end

section
/-! PROOFS. What one step does to S.LINK, S.TXN, S.UNIT and the trace (spec/10_state.md R12, R13, R20,
spec/20_memory.md R43): the link calls it makes, in which order, and that these are all that moves the session; and
the statements about every step that follow. -/

namespace Sys2Proof.Machine

open Sys2Proof.Safety

/-! ## The session follows the link events -/

/-- From `s` to `t` the link events `evs` were added, S.LINK followed them (R20), and S.UNIT was not written. -/
structure Moves (s t : State) (evs : List LinkEvent) : Prop where
  trace : t.trace = s.trace ++ evs
  link : t.link = evs.foldl linkAfter s.link
  unit : t.unit = s.unit

theorem Moves.after {s t u : State} {evs evs' : List LinkEvent} (h' : Moves t u evs') (h : Moves s t evs) :
    Moves s u (evs ++ evs') where
  trace := by rw [h'.trace, h.trace, List.append_assoc]
  link := by rw [h'.link, h.link, List.foldl_append]
  unit := h'.unit.trans h.unit

/-- Where nothing of the session was written, no event was added. -/
theorem Moves.nil {s t : State} (htrace : t.trace = s.trace) (hlink : t.link = s.link) (hunit : t.unit = s.unit) :
    Moves s t [] := ⟨by rw [htrace, List.append_nil], hlink, hunit⟩

/-! ## The link calls of each shared operation -/

/-- The calls of step 7. -/
inductive ReadCalls : List LinkEvent → Prop
  | waits : ReadCalls []
  | read (a : ReadAnswer) : ReadCalls [.read a]

/-- The calls of step 6 and then of step 7: no read but after a written write. -/
inductive WriteCalls : List LinkEvent → List LinkEvent → Prop
  | waits : WriteCalls [] []
  | failed (b : List Byte) (o : Bool) (n : Nat) : WriteCalls [.write b (.failed o n)] []
  | written (b : List Byte) {r : List LinkEvent} (h : ReadCalls r) : WriteCalls [.write b .written] r

/-- The calls of step 2 on a disconnected session, and then of steps 6 and 7. -/
inductive OpenCalls : List LinkEvent → List LinkEvent → List LinkEvent → Prop
  | waits : OpenCalls [] [] []
  | failed : OpenCalls [.connect .failed] [] []
  | opened {w r : List LinkEvent} (h : WriteCalls w r) : OpenCalls [.connect .opened] w r

theorem sendRead_calls {finish : Finish} {tid : Word} {s t : State} (h : sendRead finish tid s = .next t) :
    ∃ r, Moves s t r ∧ t.txn = s.txn ∧ ReadCalls r := by
  rcases sendRead_cases h with ⟨-, rfl⟩ | ⟨a, o, s', ⟨d, rest, -, ha, rfl⟩, rfl⟩ |
    ⟨b, s', r, ⟨arrived, n, o, rest, -, -, -, rfl⟩, -, rfl⟩
  · exact ⟨[], .nil rfl rfl rfl, rfl, .waits⟩
  · refine ⟨[.read a], ⟨rfl, ?_, rfl⟩, rfl, .read a⟩
    rcases ha with rfl | rfl <;> rfl
  · exact ⟨[.read (.data b)], ⟨rfl, rfl, rfl⟩, rfl, .read _⟩

theorem sendWrite_calls {finish : Finish} {tid : Word} {e : List Byte} {s t : State}
    (h : sendWrite finish tid e s = .next t) :
    ∃ w r, Moves s t (w ++ r) ∧ t.txn = s.txn ∧ WriteCalls w r := by
  rcases sendWrite_cases h with ⟨-, rfl⟩ | ⟨o, n, rest, -, rfl⟩ | ⟨rest, -, h⟩
  · exact ⟨[], [], .nil rfl rfl rfl, rfl, .waits⟩
  · exact ⟨[.write e (.failed o n)], [], ⟨rfl, rfl, rfl⟩, rfl, .failed e o n⟩
  · obtain ⟨r, hmoves, htxn, hr⟩ := sendRead_calls h
    exact ⟨[.write e .written], r, hmoves.after (evs := [.write e .written]) ⟨rfl, rfl, rfl⟩, htxn, .written e hr⟩

theorem sendIssue_calls {finish : Finish} {p : List Byte} {s t : State} (h : sendIssue finish p s = .next t) :
    ∃ w r, Moves s t (w ++ r) ∧ t.txn = s.txn + 1 ∧ WriteCalls w r := by
  rw [sendIssue_eq] at h
  obtain ⟨w, r, ⟨htrace, hlink, hunit⟩, htxn, hw⟩ := sendWrite_calls h
  exact ⟨w, r, ⟨htrace, hlink, hunit⟩, htxn, hw⟩

theorem sendOpen_calls {finish : Finish} {p : List Byte} {s t : State} (h : sendOpen finish p s = .next t) :
    ∃ c w r, Moves s t (c ++ (w ++ r)) ∧ (t.txn = s.txn ∨ t.txn = s.txn + 1) ∧ OpenCalls c w r := by
  rcases sendOpen_cases h with ⟨-, rfl⟩ | ⟨rest, -, rfl⟩ | ⟨rest, -, h⟩
  · exact ⟨[], [], [], .nil rfl rfl rfl, .inl rfl, .waits⟩
  · exact ⟨[.connect .failed], [], [], ⟨rfl, rfl, rfl⟩, .inl rfl, .failed⟩
  · obtain ⟨w, r, hmoves, htxn, hw⟩ := sendIssue_calls h
    exact ⟨[.connect .opened], w, r, hmoves.after (evs := [.connect .opened]) ⟨rfl, rfl, rfl⟩, .inr htxn, .opened hw⟩

/-- CONNECT makes the calls of step 2 alone. -/
theorem connectOpen_calls {s t : State} (h : connectOpen s = .next t) :
    ∃ c w r, Moves s t (c ++ (w ++ r)) ∧ t.txn = s.txn ∧ OpenCalls c w r ∧ w = [] ∧ r = [] := by
  rcases connectOpen_cases h with ⟨-, rfl⟩ | ⟨rest, -, rfl⟩ | ⟨rest, -, rfl⟩
  · exact ⟨[], [], [], .nil rfl rfl rfl, rfl, .waits, rfl, rfl⟩
  · exact ⟨[.connect .failed], [], [], ⟨rfl, rfl, rfl⟩, rfl, .failed, rfl, rfl⟩
  · exact ⟨[.connect .opened], [], [], ⟨rfl, rfl, rfl⟩, rfl, .opened .waits, rfl, rfl⟩

/-! ## Their order, and the session they need -/

/-- `LinkConnect` is called on a disconnected session, the other calls on one that is connected or was opened. -/
def LinkUse (l : LinkState) (evs : List LinkEvent) : Prop :=
  (∀ a, LinkEvent.connect a ∈ evs → l = .disconnected) ∧
  (∀ e ∈ evs, (∀ a, e ≠ .connect a) → l = .connected ∨ LinkEvent.connect .opened ∈ evs)

theorem linkUse_nil (l : LinkState) : LinkUse l [] := ⟨nofun, nofun⟩

theorem inCallOrder_nil (waiting : Option InFlight) : InCallOrder waiting [] :=
  .inr ⟨[], [], [], rfl, .inl rfl, .inl rfl, .inl rfl, fun _ _ _ _ => rfl, fun _ _ _ => ⟨rfl, rfl⟩,
    fun _ => ⟨rfl, rfl⟩⟩

theorem ReadCalls.inCallOrder {r : List LinkEvent} (h : ReadCalls r) (finish : Finish) (tid : Word) :
    InCallOrder (some (.reading finish tid)) r := by
  refine .inr ⟨[], [], r, rfl, .inl rfl, .inl rfl, ?_, fun _ _ _ _ => rfl, fun _ _ _ => ⟨rfl, rfl⟩, nofun⟩
  cases h with
  | waits => exact .inl rfl
  | read a => exact .inr ⟨a, rfl, .inr ⟨rfl, rfl, finish, tid, rfl⟩⟩

theorem WriteCalls.write_order {w r : List LinkEvent} (h : WriteCalls w r) :
    w = [] ∨ (∃ b, w = [.write b .written]) ∨ (∃ b o n, w = [.write b (.failed o n)] ∧ r = []) := by
  cases h with
  | waits => exact .inl rfl
  | failed b o n => exact .inr (.inr ⟨b, o, n, rfl, rfl⟩)
  | written b h => exact .inr (.inl ⟨b, rfl⟩)

theorem WriteCalls.read_order {w r : List LinkEvent} (h : WriteCalls w r) :
    r = [] ∨ ∃ a, r = [.read a] ∧ ∃ b, w = [.write b .written] := by
  cases h with
  | waits => exact .inl rfl
  | failed b o n => exact .inl rfl
  | written b h =>
    cases h with
    | waits => exact .inl rfl
    | read a => exact .inr ⟨a, rfl, b, rfl⟩

/-- Without a connect the calls fit a command that starts, and one that resumes at its write. -/
theorem WriteCalls.inCallOrder {w r : List LinkEvent} (h : WriteCalls w r) {waiting : Option InFlight}
    (hw : waiting = none ∨ ∃ finish tid e, waiting = some (.writing finish tid e)) :
    InCallOrder waiting (w ++ r) := by
  refine .inr ⟨[], w, r, rfl, .inl rfl, h.write_order,
    h.read_order.imp id fun ⟨a, hr, hb⟩ => ⟨a, hr, .inl hb⟩, fun _ _ _ _ => rfl, ?_, ?_⟩
  all_goals rcases hw with rfl | ⟨finish, tid, e, rfl⟩ <;> exact nofun

/-- With a connect they fit a command that starts, one that resumes at its connect, and CONNECT itself. -/
theorem OpenCalls.inCallOrder {c w r : List LinkEvent} (h : OpenCalls c w r) {waiting : Option InFlight}
    (hw : waiting = none ∨ (∃ finish p, waiting = some (.opening finish p)) ∨
      waiting = some .connect ∧ w = [] ∧ r = []) :
    InCallOrder waiting (c ++ (w ++ r)) := by
  have hwriting : ∀ finish tid e, waiting ≠ some (.writing finish tid e) := by
    rcases hw with rfl | ⟨finish, p, rfl⟩ | ⟨rfl, -, -⟩ <;> exact nofun
  have hreading : ∀ finish tid, waiting ≠ some (.reading finish tid) := by
    rcases hw with rfl | ⟨finish, p, rfl⟩ | ⟨rfl, -, -⟩ <;> exact nofun
  have hconnect : waiting = some .connect → w = [] ∧ r = [] := by
    rcases hw with rfl | ⟨finish, p, rfl⟩ | ⟨-, hnone⟩
    · exact nofun
    · exact nofun
    · exact fun _ => hnone
  cases h with
  | waits => exact inCallOrder_nil waiting
  | failed =>
    exact .inr ⟨[.connect .failed], [], [], rfl, .inr (.inr ⟨rfl, rfl, rfl⟩), .inl rfl, .inl rfl,
      fun _ _ _ hf => absurd hf (hwriting _ _ _), fun _ _ hf => absurd hf (hreading _ _), hconnect⟩
  | opened h =>
    exact .inr ⟨[.connect .opened], w, r, rfl, .inr (.inl rfl), h.write_order,
      h.read_order.imp id fun ⟨a, hr, hb⟩ => ⟨a, hr, .inl hb⟩,
      fun _ _ _ hf => absurd hf (hwriting _ _ _), fun _ _ hf => absurd hf (hreading _ _), hconnect⟩

theorem ReadCalls.no_connect {r : List LinkEvent} (h : ReadCalls r) (a : ConnectAnswer) : .connect a ∉ r := by
  cases h <;> simp

theorem WriteCalls.no_connect {w r : List LinkEvent} (h : WriteCalls w r) (a : ConnectAnswer) :
    .connect a ∉ w ++ r := by
  cases h with
  | waits => simp
  | failed b o n => simp
  | written b h => simpa using h.no_connect a

/-- On a connected session any calls but connects may be made. -/
theorem linkUse_of_connected {l : LinkState} {evs : List LinkEvent} (hl : l = .connected)
    (h : ∀ a, LinkEvent.connect a ∉ evs) : LinkUse l evs :=
  ⟨fun a ha => absurd ha (h a), fun _ _ _ => .inl hl⟩

theorem OpenCalls.linkUse {c w r : List LinkEvent} (h : OpenCalls c w r) {l : LinkState}
    (hl : l = .disconnected) : LinkUse l (c ++ (w ++ r)) := by
  refine ⟨fun _ _ => hl, fun e he hne => .inr ?_⟩
  cases h with
  | waits => cases he
  | failed =>
    obtain rfl : e = .connect .failed := by simpa using he
    exact absurd rfl (hne .failed)
  | opened h => exact List.mem_cons_self

/-! ## The calls of commands and steps -/

theorem inCallOrder_close : InCallOrder none [.close] := .inl ⟨rfl, rfl⟩

/-- A command that starts: its calls, and that only one with a request PDU advances the counter (R141). -/
theorem exec_calls {i : Instr} {s t : State} (h : exec i s = .next t) :
    ∃ evs, Moves s t evs ∧ InCallOrder none evs ∧ LinkUse s.link evs ∧
      (t.txn = s.txn ∨ t.txn = s.txn + 1 ∧ requestPdu i ≠ none) := by
  rcases exec_cases h with ⟨pdu, finish, hpdu, -, h⟩ | ⟨-, ⟨r, rfl⟩ | ⟨hl, h⟩ | ⟨hl, rfl⟩⟩
  · have hsome : requestPdu i ≠ none := by rw [hpdu]; exact Option.some_ne_none pdu
    unfold exchange at h
    split at h
    · cases h
      exact ⟨[], .nil rfl rfl rfl, inCallOrder_nil none, linkUse_nil _, .inl rfl⟩
    · unfold sendConnected at h
      split at h
      case h_1 hl =>
        obtain ⟨w, r, hmoves, htxn, hw⟩ := sendIssue_calls h
        exact ⟨w ++ r, hmoves, hw.inCallOrder (.inl rfl), linkUse_of_connected hl hw.no_connect,
          .inr ⟨htxn, hsome⟩⟩
      case h_2 hl =>
        obtain ⟨c, w, r, hmoves, htxn, hc⟩ := sendOpen_calls h
        exact ⟨_, hmoves, hc.inCallOrder (.inl rfl), hc.linkUse hl, htxn.imp id fun htxn => ⟨htxn, hsome⟩⟩
  · exact ⟨[], .nil rfl rfl rfl, inCallOrder_nil none, linkUse_nil _, .inl rfl⟩
  · obtain ⟨c, w, r, hmoves, htxn, hc, -⟩ := connectOpen_calls h
    exact ⟨_, hmoves, hc.inCallOrder (.inl rfl), hc.linkUse hl, .inl htxn⟩
  · exact ⟨[.close], ⟨rfl, rfl, rfl⟩, inCallOrder_close, linkUse_of_connected hl (by simp), .inl rfl⟩

/-- A command that resumes: its calls, and that only one that waited at its connect advances the counter. -/
theorem resume_calls {f : InFlight} {s t : State} (h : resume f s = .next t) :
    ∃ evs, Moves s t evs ∧ InCallOrder (some f) evs ∧ (FlightWf s f → LinkUse s.link evs) ∧
      (t.txn = s.txn ∨ t.txn = s.txn + 1 ∧ ∃ finish p, f = .opening finish p) := by
  cases f with
  | connect =>
    obtain ⟨c, w, r, hmoves, htxn, hc, hnone⟩ := connectOpen_calls h
    exact ⟨_, hmoves, hc.inCallOrder (.inr (.inr ⟨rfl, hnone⟩)), hc.linkUse, .inl htxn⟩
  | opening finish p =>
    obtain ⟨c, w, r, hmoves, htxn, hc⟩ := sendOpen_calls h
    exact ⟨_, hmoves, hc.inCallOrder (.inr (.inl ⟨finish, p, rfl⟩)), fun ⟨hl, _⟩ => hc.linkUse hl,
      htxn.imp id fun htxn => ⟨htxn, finish, p, rfl⟩⟩
  | writing finish tid e =>
    obtain ⟨w, r, hmoves, htxn, hw⟩ := sendWrite_calls h
    exact ⟨w ++ r, hmoves, hw.inCallOrder (.inr ⟨finish, tid, e, rfl⟩),
      fun ⟨hl, _⟩ => linkUse_of_connected hl hw.no_connect, .inl htxn⟩
  | reading finish tid =>
    obtain ⟨r, hmoves, htxn, hr⟩ := sendRead_calls h
    exact ⟨r, hmoves, hr.inCallOrder finish tid, fun ⟨hl, _⟩ => linkUse_of_connected hl hr.no_connect, .inl htxn⟩

/-- Where a step that is no reset may advance the counter: where it starts a command with a request PDU, or resumes
one at its `LinkConnect`. -/
def MayCount (s : State) : Prop :=
  (s.inFlight = none ∧ ∃ m i, s.port = some (.command m) ∧ decode m = .ok i ∧ requestPdu i ≠ none) ∨
  (s.port = none ∧ ∃ finish p, s.inFlight = some (.opening finish p))

/-- Everything a step that is no reset does to the session. -/
theorem step_calls {s t : State} (hp : s.port ≠ some .reset) (h : step s = .next t) :
    ∃ evs, Moves s t evs ∧ InCallOrder s.inFlight evs ∧ (Inv s → LinkUse s.link evs) ∧
      (t.txn = s.txn ∨ t.txn = s.txn + 1 ∧ MayCount s) := by
  rcases step_cases h with ⟨m, i, hm, hf, hi, h⟩ | ⟨hr, -⟩ | ⟨hn, f, hf, h⟩ |
    ⟨-, -, ⟨-, rfl⟩ | ⟨a, rest, -, rfl⟩⟩
  · obtain ⟨evs, ⟨htrace, hlink, hunit⟩, horder, huse, htxn⟩ := exec_calls h
    exact ⟨evs, ⟨htrace, hlink, hunit⟩, by rw [hf]; exact horder, fun _ => huse,
      htxn.imp id fun ⟨htxn, hpdu⟩ => ⟨htxn, .inl ⟨hf, m, i, hm, hi, hpdu⟩⟩⟩
  · exact absurd hr hp
  · obtain ⟨evs, hmoves, horder, huse, htxn⟩ := resume_calls h
    exact ⟨evs, hmoves, by rw [hf]; exact horder, fun ⟨_, hflight, _⟩ => huse (hflight f hf),
      htxn.imp id fun ⟨htxn, finish, p, hopening⟩ => ⟨htxn, .inr ⟨hn, finish, p, by rw [hf, hopening]⟩⟩⟩
  · exact ⟨[], .nil rfl rfl rfl, inCallOrder_nil _, fun _ => linkUse_nil _, .inl rfl⟩
  · exact ⟨[], .nil rfl rfl rfl, inCallOrder_nil _, fun _ => linkUse_nil _, .inl rfl⟩

/-- A reset with nothing in flight is the reset state, with what is not MBF's kept. -/
theorem step_reset_cases {s t : State} (hp : s.port = some .reset) (h : step s = .next t) : t = s.afterReset := by
  rw [step_of_reset hp, takeReset] at h
  split at h <;> cases h
  rfl

/-! ## The statements -/

/-- Settles O45: a command's counter from `exec_calls`, a step's from `step_calls`, a reset's from the reset state. -/
theorem counterOnlyIncrements : Obligations.CounterOnlyIncrements := by
  refine ⟨fun i s t h => ?command, fun s t hp h => ?step, fun s t hp h => ?reset, rfl⟩
  case command =>
    obtain ⟨evs, -, -, -, htxn⟩ := exec_calls h
    exact htxn
  case step =>
    obtain ⟨evs, -, -, -, htxn⟩ := step_calls hp h
    exact htxn
  case reset =>
    rw [step_reset_cases hp h, State.afterReset_txn]

/-- Settles O46: no step but a reset writes S.UNIT, and S.PROTO is an accessor. -/
theorem unitAndProtocolIdConstant : Obligations.UnitAndProtocolIdConstant := by
  refine ⟨fun s t hp h => ?_, State.proto_eq⟩
  obtain ⟨evs, hmoves, -⟩ := step_calls hp h
  exact hmoves.unit

/-- Settles O47: S.LINK is the fold of the events that were added. -/
theorem linkFollowsItsEvents : Obligations.LinkFollowsItsEvents := by
  intro s t hp h
  obtain ⟨evs, hmoves, -⟩ := step_calls hp h
  exact ⟨evs, hmoves.trace, hmoves.link⟩

/-- Settles O48: the order from `step_calls`; a reset makes no call. -/
theorem linkCallsInOrder : Obligations.LinkCallsInOrder := by
  intro s t h
  by_cases hp : s.port = some .reset
  · rw [step_reset_cases hp h]
    exact ⟨[], (List.append_nil _).symm, inCallOrder_nil _, fun _ => linkUse_nil _⟩
  · obtain ⟨evs, hmoves, horder, huse, -⟩ := step_calls hp h
    exact ⟨evs, hmoves.trace, horder, huse⟩

end Sys2Proof.Machine
end
